-- ==== Sys2Proof/Word.lean ====
section
/-! DEFINITION. The plain types every file uses: bytes, 32-bit words, byte strings of fixed length, text (rules R10, R11, R13). -/

namespace Sys2Proof

/-- R10: an unsigned 8-bit value. -/
abbrev Byte := BitVec 8

/-- R10, R63: the 32-bit value of a 4-byte bus access, a command word or STATUS. -/
abbrev Word := BitVec 32

/-- R11: a byte string of a fixed length; byte 0 is the first. -/
abbrev Bytes (n : Nat) := Vector Byte n

/-- R14: a block, exactly 16 bytes. Element (row r, column c) of the AES state matrix is byte `r + 4c` (R13). -/
abbrev Block := Bytes 16

/-- R11, R28, R76: text (and raw data of varying length) as a byte string, one ASCII code per character. -/
abbrev Text := List Byte

end Sys2Proof
end

