-- ==== Sys2Proof/Syntax.lean ====
section
/-! DEFINITION. The commands of the block: one constructor per row of the opcode map (rule R84). -/

namespace Sys2Proof

/-- R82: the key select operand KSEL: 0 is KEYA, 1 is KEYB (R23). -/
inductive KeySel where
  | a
  | b
deriving DecidableEq, Repr

/-- R83: the field class of an opcode, which says which of R and KSEL it uses. -/
inductive FieldClass where
  | n
  | r
  | k
deriving DecidableEq, Repr

/-- R84: the 31 commands. A class R command carries its round index R, a class K command its key select. -/
inductive Instr where
  | nop
  | clear
  | keyexp (k : KeySel)
  | subb
  | isubb
  | shr
  | ishr
  | mixc
  | imixc
  | addrk (r : Nat)
  | addrkt (r : Nat)
  | eround (r : Nat)
  | efinal (r : Nat)
  | dround (r : Nat)
  | dinit (r : Nat)
  | aesEnc (k : KeySel)
  | aesDec (k : KeySel)
  | kiasuEnc (k : KeySel)
  | kiasuDec (k : KeySel)
  | xexEnc
  | xexDec
  | parse
  | format
  | hexenc
  | hexdec
  | detEnc
  | detDec
  | ndEnc
  | ndDec
  | ndxEnc
  | ndxDec
deriving DecidableEq, Repr

end Sys2Proof
end

