-- ==== Sys2Proof/WellFormed.lean ====
section
/-! DEFINITION. Which terms of `Instr` a command word can carry (rules R81, R82, R88). -/

namespace Sys2Proof

/-- R81, R88: the round index is an unsigned 4-bit value. 11..15 can be written; they encode a command that raises
BadOperand when it executes (R82, R87). -/
abbrev RoundIndexFits (r : Nat) : Prop := r ≤ 15

/-- A command is well formed when every operand fits its field. KSEL is one bit by its type. -/
def Instr.WellFormed : Instr → Bool
  | .nop | .clear => true
  | .keyexp _ => true
  | .subb | .isubb | .shr | .ishr | .mixc | .imixc => true
  | .addrk r | .addrkt r | .eround r | .efinal r | .dround r | .dinit r => decide (RoundIndexFits r)
  | .aesEnc _ | .aesDec _ | .kiasuEnc _ | .kiasuDec _ => true
  | .xexEnc | .xexDec => true
  | .parse | .format | .hexenc | .hexdec => true
  | .detEnc | .detDec | .ndEnc | .ndDec | .ndxEnc | .ndxDec => true

end Sys2Proof
end

