-- ==== Sys2Proof/Decode.lean ====
section
/-! DEFINITION. Decoding and encoding of the command word (rules R80 to R88). The block fetches nothing (R68): a command
exists only as the 32-bit value of a CMD write, so the decoder's input is that word. -/

namespace Sys2Proof

/-- R86: why a word is no command. All of them raise IllegalCommand (code 6); the reason itself is not recorded (R271). -/
inductive Illegal where
  /-- R86 item 1: OP has no row in R84. -/
  | unassignedOpcode
  /-- R86 item 2: a bit of RSV is 1. -/
  | reservedBits
  /-- R86 item 3: R is nonzero in a class N or class K word. -/
  | unusedRoundField
  /-- R86 item 3: KSEL is 1 in a class N or class R word. -/
  | unusedKeySelect
deriving DecidableEq, Repr

/-- R81: OP, bits 7:0. -/
def opField (v : Word) : Byte := v.extractLsb' 0 8
/-- R81: R, bits 11:8. -/
def roundField (v : Word) : BitVec 4 := v.extractLsb' 8 4
/-- R81: KSEL, bit 12. -/
def keySelField (v : Word) : BitVec 1 := v.extractLsb' 12 1
/-- R81: RSV, bits 31:13. -/
def reservedField (v : Word) : BitVec 19 := v.extractLsb' 13 19

/-- R82: KSEL = 0 selects KEYA, KSEL = 1 selects KEYB. -/
def keySelOfBit (b : BitVec 1) : KeySel := if b = 0 then .a else .b

/-- R82: the bit that selects a key half. -/
def KeySel.bit : KeySel → BitVec 1
  | .a => 0
  | .b => 1

/-- One row of the opcode map: the opcode, the mnemonic, the field class, and the command that operands R and KSEL make. -/
structure OpRow where
  op : Byte
  mnemonic : String
  cls : FieldClass
  make : Nat → KeySel → Instr

/-- R84: rows of family 0x0_ (control). -/
def controlRows : List OpRow :=
  [ ⟨0x00, "NOP", .n, fun _ _ => .nop⟩,
    ⟨0x01, "CLEAR", .n, fun _ _ => .clear⟩ ]

/-- R84: rows of family 0x1_ (key schedule and primitives). -/
def primitiveRows : List OpRow :=
  [ ⟨0x10, "KEYEXP", .k, fun _ k => .keyexp k⟩,
    ⟨0x11, "SUBB", .n, fun _ _ => .subb⟩,
    ⟨0x12, "ISUBB", .n, fun _ _ => .isubb⟩,
    ⟨0x13, "SHR", .n, fun _ _ => .shr⟩,
    ⟨0x14, "ISHR", .n, fun _ _ => .ishr⟩,
    ⟨0x15, "MIXC", .n, fun _ _ => .mixc⟩,
    ⟨0x16, "IMIXC", .n, fun _ _ => .imixc⟩,
    ⟨0x17, "ADDRK", .r, fun r _ => .addrk r⟩,
    ⟨0x18, "ADDRKT", .r, fun r _ => .addrkt r⟩,
    ⟨0x19, "EROUND", .r, fun r _ => .eround r⟩,
    ⟨0x1A, "EFINAL", .r, fun r _ => .efinal r⟩,
    ⟨0x1B, "DROUND", .r, fun r _ => .dround r⟩,
    ⟨0x1C, "DINIT", .r, fun r _ => .dinit r⟩ ]

/-- R84: rows of family 0x2_ (block commands). -/
def blockRows : List OpRow :=
  [ ⟨0x20, "AES_ENC", .k, fun _ k => .aesEnc k⟩,
    ⟨0x21, "AES_DEC", .k, fun _ k => .aesDec k⟩,
    ⟨0x22, "KIASU_ENC", .k, fun _ k => .kiasuEnc k⟩,
    ⟨0x23, "KIASU_DEC", .k, fun _ k => .kiasuDec k⟩,
    ⟨0x24, "XEX_ENC", .n, fun _ _ => .xexEnc⟩,
    ⟨0x25, "XEX_DEC", .n, fun _ _ => .xexDec⟩ ]

/-- R84: rows of family 0x3_ (address codec). -/
def codecRows : List OpRow :=
  [ ⟨0x30, "PARSE", .n, fun _ _ => .parse⟩,
    ⟨0x31, "FORMAT", .n, fun _ _ => .format⟩,
    ⟨0x32, "HEXENC", .n, fun _ _ => .hexenc⟩,
    ⟨0x33, "HEXDEC", .n, fun _ _ => .hexdec⟩ ]

/-- R84: rows of family 0x4_ (modes). -/
def modeRows : List OpRow :=
  [ ⟨0x40, "DET_ENC", .n, fun _ _ => .detEnc⟩,
    ⟨0x41, "DET_DEC", .n, fun _ _ => .detDec⟩,
    ⟨0x42, "ND_ENC", .n, fun _ _ => .ndEnc⟩,
    ⟨0x43, "ND_DEC", .n, fun _ _ => .ndDec⟩,
    ⟨0x44, "NDX_ENC", .n, fun _ _ => .ndxEnc⟩,
    ⟨0x45, "NDX_DEC", .n, fun _ _ => .ndxDec⟩ ]

/-- R84: the opcode map. -/
def opTable : List OpRow := controlRows ++ primitiveRows ++ blockRows ++ codecRows ++ modeRows

/-- R83: the mask of a field class. -/
def FieldClass.mask : FieldClass → Word
  | .n => 0xFFFFFFFF
  | .r => 0xFFFFF0FF
  | .k => 0xFFFFEFFF

/-- R85: the check that the fields a class does not use are 0. -/
def checkUnusedFields (c : FieldClass) (r : BitVec 4) (k : BitVec 1) : Option Illegal :=
  match c with
  | .n => if r ≠ 0 then some .unusedRoundField else if k ≠ 0 then some .unusedKeySelect else none
  | .r => if k ≠ 0 then some .unusedKeySelect else none
  | .k => if r ≠ 0 then some .unusedRoundField else none

/-- R85: decode, total on every 32-bit word: a command, or the reason the word is illegal. -/
def decode (v : Word) : Except Illegal Instr :=
  match opTable.find? (fun row => row.op == opField v) with
  | none => .error .unassignedOpcode
  | some row =>
    if reservedField v ≠ 0 then .error .reservedBits
    else
      match checkUnusedFields row.cls (roundField v) (keySelField v) with
      | some e => .error e
      | none => .ok (row.make (roundField v).toNat (keySelOfBit (keySelField v)))

/-- R84: the opcode of a command. -/
def Instr.op : Instr → Byte
  | .nop => 0x00
  | .clear => 0x01
  | .keyexp _ => 0x10
  | .subb => 0x11
  | .isubb => 0x12
  | .shr => 0x13
  | .ishr => 0x14
  | .mixc => 0x15
  | .imixc => 0x16
  | .addrk _ => 0x17
  | .addrkt _ => 0x18
  | .eround _ => 0x19
  | .efinal _ => 0x1A
  | .dround _ => 0x1B
  | .dinit _ => 0x1C
  | .aesEnc _ => 0x20
  | .aesDec _ => 0x21
  | .kiasuEnc _ => 0x22
  | .kiasuDec _ => 0x23
  | .xexEnc => 0x24
  | .xexDec => 0x25
  | .parse => 0x30
  | .format => 0x31
  | .hexenc => 0x32
  | .hexdec => 0x33
  | .detEnc => 0x40
  | .detDec => 0x41
  | .ndEnc => 0x42
  | .ndDec => 0x43
  | .ndxEnc => 0x44
  | .ndxDec => 0x45

/-- R83, R84: the field class of a command. -/
def Instr.cls : Instr → FieldClass
  | .keyexp _ | .aesEnc _ | .aesDec _ | .kiasuEnc _ | .kiasuDec _ => .k
  | .addrk _ | .addrkt _ | .eround _ | .efinal _ | .dround _ | .dinit _ => .r
  | .nop | .clear | .subb | .isubb | .shr | .ishr | .mixc | .imixc | .xexEnc | .xexDec => .n
  | .parse | .format | .hexenc | .hexdec | .detEnc | .detDec | .ndEnc | .ndDec | .ndxEnc | .ndxDec => .n

/-- R82: the round index operand of a command; 0 where its class has none. -/
def Instr.round : Instr → Nat
  | .addrk r | .addrkt r | .eround r | .efinal r | .dround r | .dinit r => r
  | .nop | .clear | .keyexp _ | .subb | .isubb | .shr | .ishr | .mixc | .imixc => 0
  | .aesEnc _ | .aesDec _ | .kiasuEnc _ | .kiasuDec _ | .xexEnc | .xexDec => 0
  | .parse | .format | .hexenc | .hexdec | .detEnc | .detDec | .ndEnc | .ndDec | .ndxEnc | .ndxDec => 0

/-- R82: the key select operand of a command; KEYA (0) where its class has none. -/
def Instr.ksel : Instr → KeySel
  | .keyexp k | .aesEnc k | .aesDec k | .kiasuEnc k | .kiasuDec k => k
  | .addrk _ | .addrkt _ | .eround _ | .efinal _ | .dround _ | .dinit _ => .a
  | .nop | .clear | .subb | .isubb | .shr | .ishr | .mixc | .imixc | .xexEnc | .xexDec => .a
  | .parse | .format | .hexenc | .hexdec | .detEnc | .detDec | .ndEnc | .ndDec | .ndxEnc | .ndxDec => .a

/-- R88: `enc(M, x) = zext_32(OP) OR (R << 8) OR (KSEL << 12)`. -/
def encode (i : Instr) : Word :=
  i.op.setWidth 32 ||| (BitVec.ofNat 32 i.round <<< 8) ||| (i.ksel.bit.setWidth 32 <<< 12)

/-- R88: a decimal round index 0..15 in assembler text. DESIGN CHOICE (log entry 16): it is written without leading zeros, so
`03` is no index; the spec does not say. -/
def asmRound : List Char → Option Nat
  | [c] => if c.isDigit then some (c.toNat - '0'.toNat) else none
  | ['1', c] => if c.isDigit && decide (c.toNat ≤ '5'.toNat) then some (10 + (c.toNat - '0'.toNat)) else none
  | _ => none

/-- R88: the key operand `A` or `B`; an omitted one means `A`. DESIGN CHOICE (log entry 16): the letter is a capital; the spec
lets the mnemonic alone stand in any case. -/
def asmKey : List Char → Option KeySel
  | [] => some .a
  | ['A'] => some .a
  | ['B'] => some .b
  | _ => none

/-- R88: the command that a mnemonic (in any letter case) and an operand text name. Class N takes no operand. -/
def assemble (mnemonic operand : List Char) : Option Instr :=
  match opTable.find? (fun row => row.mnemonic.toList == mnemonic.map Char.toUpper) with
  | none => none
  | some row =>
    match row.cls with
    | .n => if operand = [] then some (row.make 0 .a) else none
    | .r => (asmRound operand).map fun r => row.make r .a
    | .k => (asmKey operand).map fun k => row.make 0 k

/-- The host's question: the command our decoder reads from a word of `nbits` bits (bit 0 the least significant). A
command is one 32-bit word (R80), so the word is taken as it stands. -/
def decodeTableWord (nbits w : Nat) : Option Instr :=
  match decode (BitVec.ofNat 32 (w % 2 ^ nbits)) with
  | .ok i => some i
  | .error _ => none

end Sys2Proof
end

