-- ==== Sys2Proof/Machine/Bytes.lean ====
section
/-! DEFINITION. Operations on byte strings (rule R11). Every one is built from `Bytes.build`, the byte string given byte by
byte, and `Bytes.byteAt`, the read of one byte. -/

namespace Sys2Proof

/-- The byte string of length `n` whose byte `i` is `f i`. -/
def Bytes.build (n : Nat) (f : Nat → Byte) : Bytes n := ⟨((List.range n).map f).toArray, by simp⟩

/-- R11: `b[i]`. Every use has `i < n`; the function is made total by reading 0 elsewhere. -/
def Bytes.byteAt {n : Nat} (b : Bytes n) (i : Nat) : Byte := b.toArray.toList.getD i 0

/-- R11: `zeros(n)`. -/
def zeros (n : Nat) : Bytes n := Bytes.build n fun _ => 0

/-- R11: the bytewise XOR of two strings of equal length. -/
def Bytes.xor {n : Nat} (a b : Bytes n) : Bytes n := Bytes.build n fun i => a.byteAt i ^^^ b.byteAt i

/-- R11: the slice `b[lo..lo+len)`. -/
def Bytes.slice {n : Nat} (b : Bytes n) (lo len : Nat) : Bytes len := Bytes.build len fun i => b.byteAt (lo + i)

/-- R11: the concatenation `a ‖ b`. -/
def Bytes.cat {m n : Nat} (a : Bytes m) (b : Bytes n) : Bytes (m + n) :=
  Bytes.build (m + n) fun i => if i < m then a.byteAt i else b.byteAt (i - m)

/-- R12: `X[i] <- v`. -/
def Bytes.setByte {n : Nat} (b : Bytes n) (i : Nat) (v : Byte) : Bytes n :=
  Bytes.build n fun j => if j = i then v else b.byteAt j

/-- R11: the bytes of a byte string, in order. -/
def Bytes.bytes {n : Nat} (b : Bytes n) : List Byte := b.toArray.toList

/-- R28, R29: the input part `X[0..len)` of a buffer. -/
def Bytes.firstBytes {n : Nat} (b : Bytes n) (len : Nat) : List Byte := b.bytes.take len

/-- R28, R29: a buffer of `n` bytes that holds `l` in `[0..|l|)` and zeros after it. -/
def Bytes.fill (n : Nat) (l : List Byte) : Bytes n := Bytes.build n fun i => l.getD i 0

/-- R11: the byte string that a string of hex digits denotes; byte 0 is its first two digits. -/
def Bytes.ofHex (n : Nat) (v : BitVec (8 * n)) : Bytes n := Bytes.build n fun i => v.extractLsb' (8 * (n - 1 - i)) 8

/-- R63: byte `k` of a word in the big-endian word view; byte 0 is bits 31:24. -/
def wordByte (v : Word) (k : Nat) : Byte := v.extractLsb' (24 - 8 * k) 8

/-- R63: the word whose bytes, from the lowest offset up, are `b0 b1 b2 b3`. -/
def wordOfBytes (b0 b1 b2 b3 : Byte) : Word := b0 ++ b1 ++ b2 ++ b3

/-- R11: the ASCII codes of a text. -/
def ascii (t : String) : Text := t.toList.map fun c => BitVec.ofNat 8 c.toNat

end Sys2Proof
end

