-- ==== Sys2Proof/Machine/Field.lean ====
section
/-! DEFINITION. Arithmetic of GF(2^8) and the constant tables (rules R32, R140 to R145, R174). -/

namespace Sys2Proof

/-- R141: one shift-and-reduce of the multiplicand: `(a << 1) AND 0xff`, then ⊕ 0x1b if a[7] was 1. -/
def shiftReduce (a : Byte) : Byte := if a.getLsbD 7 then (a <<< 1) ^^^ 0x1b else a <<< 1

/-- R141: the loop of `gmul`, for the iterations still to run. -/
def gmulLoop : Nat → Byte → Byte → Byte → Byte
  | 0, _, _, p => p
  | n + 1, a, b, p => gmulLoop n (shiftReduce a) (b >>> 1) (if b.getLsbD 0 then p ^^^ a else p)

/-- R141: the product `a • b`, by 8 iterations of shift-and-XOR with conditional reduction. -/
def gmul (a b : Byte) : Byte := gmulLoop 8 a b 0

/-- R142: `xtime(a) = gmul(a, 0x02)`. -/
def xtime (a : Byte) : Byte := gmul a 0x02

/-- R143: the forward S-box. Entry `r` is row `r` of the spec's table, column 0 at the left. -/
def sboxRows : List (BitVec 128) :=
  [ 0x637c777bf26b6fc53001672bfed7ab76,
    0xca82c97dfa5947f0add4a2af9ca472c0,
    0xb7fd9326363ff7cc34a5e5f171d83115,
    0x04c723c31896059a071280e2eb27b275,
    0x09832c1a1b6e5aa0523bd6b329e32f84,
    0x53d100ed20fcb15b6acbbe394a4c58cf,
    0xd0efaafb434d338545f9027f503c9fa8,
    0x51a3408f929d38f5bcb6da2110fff3d2,
    0xcd0c13ec5f974417c4a77e3d645d1973,
    0x60814fdc222a908846eeb814de5e0bdb,
    0xe0323a0a4906245cc2d3ac629195e479,
    0xe7c8376d8dd54ea96c56f4ea657aae08,
    0xba78252e1ca6b4c6e8dd741f4bbd8b8a,
    0x703eb5664803f60e613557b986c11d9e,
    0xe1f8981169d98e949b1e87e9ce5528df,
    0x8ca1890dbfe6426841992d0fb054bb16 ]

/-- R144: the inverse S-box, laid out as `sboxRows`. -/
def invSboxRows : List (BitVec 128) :=
  [ 0x52096ad53036a538bf40a39e81f3d7fb,
    0x7ce339829b2fff87348e4344c4dee9cb,
    0x547b9432a6c2233dee4c950b42fac34e,
    0x082ea16628d924b2765ba2496d8bd125,
    0x72f8f66486689816d4a45ccc5d65b692,
    0x6c704850fdedb9da5e154657a78d9d84,
    0x90d8ab008cbcd30af7e45805b8b34506,
    0xd02c1e8fca3f0f02c1afbd0301138a6b,
    0x3a9111414f67dcea97f2cfcef0b4e673,
    0x96ac7422e7ad3585e2f937e81c75df6e,
    0x47f11a711d29c5896fb7620eaa18be1b,
    0xfc563e4bc6d279209adbc0fe78cd5af4,
    0x1fdda8338807c731b11210592780ec5f,
    0x60517fa919b54a0d2de57a9f93c99cef,
    0xa0e03b4dae2af5b0c8ebbb3c83539961,
    0x172b047eba77d626e169146355210c7d ]

/-- R143: entry `x = 16·row + column` of a table of 16 rows. -/
def tableEntry (rows : List (BitVec 128)) (x : Byte) : Byte :=
  (rows.getD (x.toNat / 16) 0).extractLsb' (8 * (15 - x.toNat % 16)) 8

/-- R143: `SBOX[x]`. -/
def sbox (x : Byte) : Byte := tableEntry sboxRows x

/-- R144: `INV_SBOX[x]`. -/
def invSbox (x : Byte) : Byte := tableEntry invSboxRows x

/-- R145: `RCON[1..10]`, as a list from index 1. -/
def rconTable : List Byte := [0x01, 0x02, 0x04, 0x08, 0x10, 0x20, 0x40, 0x80, 0x1b, 0x36]

/-- R145: `RCON[j]`, j = 1..10. Index 0 is not part of the ROM and never used. -/
def rcon (j : Nat) : Byte := rconTable.getD (j - 1) 0

/-- R174: the forward coefficient row F. -/
def mixRow : List Byte := [0x02, 0x03, 0x01, 0x01]

/-- R174: the inverse coefficient row G. -/
def invMixRow : List Byte := [0x0e, 0x0b, 0x0d, 0x09]

/-- R174: entry (r, j) of the circulant matrix of a coefficient row: `row[(j - r) mod 4]`. -/
def circulant (row : List Byte) (r j : Nat) : Byte := row.getD ((j + 4 - r) % 4) 0

end Sys2Proof
end

