-- ==== Sys2Proof/Machine/KeySchedule.lean ====
section
/-! DEFINITION. The AES-128 key expansion (rules R146, R147). -/

namespace Sys2Proof

/-- R146: a word of the key schedule, 4 bytes in RKS byte order. -/
abbrev KeyWord := Bytes 4

/-- R146: `RotWord(w0, w1, w2, w3) = (w1, w2, w3, w0)`. -/
def rotWord (w : KeyWord) : KeyWord := Bytes.build 4 fun i => w.byteAt ((i + 1) % 4)

/-- R146: SubWord, each byte through the forward S-box. -/
def subWord (w : KeyWord) : KeyWord := Bytes.build 4 fun i => sbox (w.byteAt i)

/-- R146: the Rcon step XORs `RCON[j]` into the first byte only. -/
def rconStep (j : Nat) (w : KeyWord) : KeyWord :=
  Bytes.build 4 fun i => if i = 0 then w.byteAt 0 ^^^ rcon j else w.byteAt i

/-- R147: `w[i]` from `w[i-4]` and `w[i-1]`. -/
def nextKeyWord (i : Nat) (back4 back1 : KeyWord) : KeyWord :=
  back4.xor (if i % 4 = 0 then rconStep (i / 4) (subWord (rotWord back1)) else back1)

/-- R147: the words `w[i], w[i+1], …`, as many as the first argument says, from the four before them. -/
def expandFrom : Nat → Nat → KeyWord → KeyWord → KeyWord → KeyWord → List KeyWord
  | 0, _, _, _, _, _ => []
  | n + 1, i, a, b, c, d => nextKeyWord i a d :: expandFrom n (i + 1) b c d (nextKeyWord i a d)

/-- R147: the 44 words of the expansion of `k`. -/
def keyWords (k : Block) : List KeyWord :=
  let w0 : KeyWord := k.slice 0 4
  let w1 : KeyWord := k.slice 4 4
  let w2 : KeyWord := k.slice 8 4
  let w3 : KeyWord := k.slice 12 4
  w0 :: w1 :: w2 :: w3 :: expandFrom 40 4 w0 w1 w2 w3

/-- R147: `KeyExpand(k) = w[0] ‖ … ‖ w[43]`, 176 bytes. -/
def keyExpand (k : Block) : Bytes 176 :=
  Bytes.build 176 fun j => ((keyWords k).getD (j / 4) (zeros 4)).byteAt (j % 4)

end Sys2Proof
end

