-- ==== Sys2Proof/Config.lean ====
section
/-! DEFINITION. The values the spec leaves free: constants with no body, so that no proof can know them.
The other open parameters of rule R9 are not constants: LATENCY is plain data of the state (`State.latency`), and BASE
is an argument of `Machine.windowOffset` (log entries 1 and 7). -/

namespace Sys2Proof

/-- R74: byte `n` that the RNG port gives when the state's `rng` list holds no answer for it. DESIGN CHOICE (log entry 3). -/
opaque Config.rngByte : Nat → Byte

/-- R306, U2, U7: the `n`-th value of a read whose result the spec leaves unspecified (a read during BUSY, an access cut
by reset). DESIGN CHOICE (log entries 4 and 9). -/
opaque Config.unspecifiedWord : Nat → Word

end Sys2Proof
end

