-- ==== Sys2Proof/Machine/State.lean ====
section
/-! DEFINITION. The state of IPCRYPT-CORE as plain data (rules R20 to R36), the reasons a step can stop, and the state after
reset (rule R36). The fields after `inflight` are the model's own: what the host and the platform hand to the block. -/

namespace Sys2Proof.Machine

/-- R270: the values of STATUS.ERR. Codes 10 to 15 are never written and have no name. -/
inductive Err where
  | ok
  | invalidAddress
  | invalidKey
  | invalidTweak
  | invalidEncodedLength
  | tweakMismatch
  | illegalCommand
  | badOperand
  | noSchedule
  | invalidHex
deriving DecidableEq, Repr

/-- R64: one host bus access at a window offset. A 1-byte write carries its byte in bits 7:0 of `value`. Widths other
than 1 and 4 can be asked for; they end in a bus error. -/
inductive Access where
  | read (width offset : Nat)
  | write (width offset : Nat) (value : Word)
deriving DecidableEq, Repr

/-- R16: what the host and the platform do next. -/
inductive HostAction where
  /-- One bus access (R64). -/
  | access (a : Access)
  /-- R89 `wait`, the polling loop of R306: read STATUS, again and again, until BUSY reads 0. -/
  | wait
  /-- The host makes no access for one slot of time. -/
  | idle
  /-- R301: the platform asserts the reset input; `cut` is the access in progress at that moment, if any (R302). -/
  | reset (cut : Option Access)
deriving DecidableEq, Repr

/-- What the bus shows for the latest slot. It is not block state; it is where a read's value and a bus error are seen
(R64, R279). -/
inductive BusResponse where
  /-- No access was made. -/
  | quiet
  /-- A legal write was taken (a write to a read-only or reserved offset among them, R66). -/
  | done
  /-- A legal read returned `value`; a 1-byte read has its byte in bits 7:0. -/
  | data (width : Nat) (value : Word)
  /-- R64: the access was illegal. A read returned no data. -/
  | busError
  /-- R306: a write during BUSY was dropped. -/
  | dropped
  /-- R302, U7: the access was cut by reset and has no defined result; `shown` is a free value. -/
  | cut (shown : Word)
deriving DecidableEq, Repr

/-- R35 item 1: a command between its CMD write and its completion. `left + 1` is how many more slots BUSY reads 1. -/
structure Inflight where
  word : Word
  left : Nat
deriving DecidableEq, Repr

/-- R20: the architectural state, then the in-flight command of R35, then the model's own fields. -/
structure State where
  /-- R23 -/
  key : Bytes 32
  /-- R24 -/
  keylen : Byte
  /-- R25 -/
  twk : Bytes 16
  /-- R26 -/
  twklen : Byte
  /-- R27 -/
  blk : Block
  /-- R28 -/
  abuf : Bytes 64
  /-- R28 -/
  alen : Byte
  /-- R29 -/
  dbuf : Bytes 32
  /-- R29 -/
  dlen : Byte
  /-- R30 -/
  rks : Bytes 176
  /-- R31 STATUS.ERR -/
  err : Err
  /-- R31 STATUS.RKV -/
  rkv : Bool
  /-- R31 STATUS.RKSEL -/
  rksel : KeySel
  /-- R31 STATUS.OVR -/
  ovr : Bool
  /-- R35 item 1. STATUS.BUSY is 1 exactly while this holds a command (`State.busy`). -/
  inflight : Option Inflight
  /-- Model's own: the host's actions still to come, in issue order (R69). -/
  host : List HostAction
  /-- Model's own: LATENCY (R9, R313) of the commands still to be issued, one entry each, in slots; none listed means 0. -/
  latency : List Nat
  /-- Model's own: the bytes the RNG port will answer next (R74). -/
  rng : List Byte
  /-- Model's own: counts the free values used up so far (`Config.rngByte`, `Config.unspecifiedWord`). -/
  free : Nat
  /-- Model's own: the bus response of the latest slot. -/
  resp : BusResponse
deriving DecidableEq, Repr

/-- Why the machine stops. -/
inductive Fault where
  /-- Raised by `Machine.busAccess`, at the host's bus port and by no command: the access's offset is not in the window
  0x000..0x3FF, an address the block does not decode (R62, R64). Safe: what lies there is the platform's business, and the
  model says nothing about it (log entry 6). -/
  | outsideWindow (offset : Nat)
deriving DecidableEq, Repr

/-- Why an instruction has no meaning. -/
inductive Refusal where
  /-- Raised by an arm of `Machine.exec` for an instruction that has no meaning yet. Safe. No arm raises it now. -/
  | notModelled (mnemonic : String)
deriving DecidableEq, Repr

/-- R36, R300: the state after reset. The spec gives a value for every register and every STATUS field. The model's own
fields start empty: DESIGN CHOICE (log entry 5). -/
def State.reset : State :=
  { key := zeros 32
    keylen := 0
    twk := zeros 16
    twklen := 0
    blk := zeros 16
    abuf := zeros 64
    alen := 0
    dbuf := zeros 32
    dlen := 0
    rks := zeros 176
    err := .ok
    rkv := false
    rksel := .a
    ovr := false
    inflight := none
    host := []
    latency := []
    rng := []
    free := 0
    resp := .quiet }

end Sys2Proof.Machine
end

