-- ==== Sys2Proof/Machine/Flags.lean ====
section
/-! DEFINITION. STATUS: its fields and the word the host reads (rules R31, R270). -/

namespace Sys2Proof.Machine

/-- R270: the code of an error in STATUS.ERR. -/
def Err.code : Err → BitVec 4
  | .ok => 0
  | .invalidAddress => 1
  | .invalidKey => 2
  | .invalidTweak => 3
  | .invalidEncodedLength => 4
  | .tweakMismatch => 5
  | .illegalCommand => 6
  | .badOperand => 7
  | .noSchedule => 8
  | .invalidHex => 9

/-- R31, R306: STATUS.BUSY is 1 from the CMD write until the command has committed its result. -/
def State.busy (s : State) : Bool := s.inflight.isSome

/-- R31: STATUS bits 7:0, that is OVR, BUSY, RKSEL, RKV and ERR. -/
def statusByte (s : State) : Byte :=
  BitVec.ofBool s.ovr ++ BitVec.ofBool s.busy ++ s.rksel.bit ++ BitVec.ofBool s.rkv ++ s.err.code

/-- R31: the STATUS word; bits 31:8 read 0. -/
def statusWord (s : State) : Word := (statusByte s).setWidth 32

end Sys2Proof.Machine
end

