-- ==== Sys2Proof/Machine/Ops.lean ====
section
/-! DEFINITION. The named operations that commands and bus accesses share: ending a command with an error or without one
(rule R272, the block's only form of exception), the updates of the output registers, the RNG draw (R74), the reset of the
registers (R36, R300), and the read and write of one byte of the register window (R62 to R66). -/

namespace Sys2Proof.Machine

/-- What one step, or one command, answers. -/
abbrev Result := Host.Outcome State Fault Refusal

/-- Go on with `f` from the next state; a fault or a refusal ends the step. -/
def andThen (r : Result) (f : State → Result) : Result :=
  match r with
  | .next s => f s
  | .fault e => .fault e
  | .refused e => .refused e

/-! ### Ending a command -/

/-- STATUS.ERR <- e, and nothing else. -/
def State.setErr (s : State) (e : Err) : State := { s with err := e }

/-- R272: `raise E` ends the command: STATUS.ERR takes E's code and nothing else changes. There is no trap and no return
from one (R275, R276): an error is a value the host reads. -/
def raise (e : Err) (s : State) : Result := .next (s.setErr e)

/-- R272: a command that completes without raising commits its outputs, here those of `s`, and writes STATUS.ERR <- OK. -/
def complete (s : State) : Result := .next (s.setErr .ok)

/-! ### Updates of the output registers -/

/-- BLK <- b (R27). -/
def State.setBlk (s : State) (b : Block) : State := { s with blk := b }

/-- R28: a command that writes ABUF writes all 64 bytes, its text and then zeros, and ALEN <- |t|. -/
def State.setText (s : State) (t : Text) : State :=
  { s with abuf := Bytes.fill 64 t, alen := BitVec.ofNat 8 t.length }

/-- R29: a command that writes DBUF writes all 32 bytes, its data and then zeros, and DLEN <- |d|. -/
def State.setData (s : State) (d : List Byte) : State :=
  { s with dbuf := Bytes.fill 32 d, dlen := BitVec.ofNat 8 d.length }

/-- R148: RKS <- the schedule of key half `k`; STATUS.RKV <- 1; STATUS.RKSEL <- k. -/
def State.setSchedule (s : State) (k : KeySel) (rk : Bytes 176) : State :=
  { s with rks := rk, rkv := true, rksel := k }

/-! ### The RNG port -/

/-- R74: the `n` bytes of `draw(n)`: those the port has ready in `rng`, then free values. -/
def drawBytes (s : State) (n : Nat) : List Byte :=
  s.rng.take n ++ (List.range (n - s.rng.length)).map fun j => Config.rngByte (s.free + j)

/-- R74: the state once `draw(n)` has been answered. -/
def State.afterDraw (s : State) (n : Nat) : State :=
  { s with rng := s.rng.drop n, free := s.free + (n - s.rng.length) }

/-! ### Reset -/

/-- R36, R300: every register and every STATUS field at its reset value. What the host and the platform still have to do
is not block state and stays. -/
def State.resetRegisters (s : State) : State :=
  { State.reset with host := s.host, latency := s.latency, rng := s.rng, free := s.free, resp := s.resp }

/-! ### The register window -/

/-- R20: the registers of the window. -/
inductive Region where
  | cmd
  | status
  | keylen
  | twklen
  | alen
  | dlen
  | key
  | twk
  | blk
  | abuf
  | dbuf
  | rks
  | reserved
deriving DecidableEq, Repr

/-- One row of the window map: a register, its first offset and its size in bytes. -/
structure WindowRow where
  region : Region
  base : Nat
  size : Nat
deriving DecidableEq, Repr

/-- R20: the window map. Offsets in none of its rows are reserved (R66). -/
def windowMap : List WindowRow :=
  [ ⟨.cmd, 0x000, 4⟩,
    ⟨.status, 0x004, 4⟩,
    ⟨.keylen, 0x008, 4⟩,
    ⟨.twklen, 0x00C, 4⟩,
    ⟨.alen, 0x010, 4⟩,
    ⟨.dlen, 0x014, 4⟩,
    ⟨.key, 0x020, 32⟩,
    ⟨.twk, 0x040, 16⟩,
    ⟨.blk, 0x050, 16⟩,
    ⟨.abuf, 0x060, 64⟩,
    ⟨.dbuf, 0x0A0, 32⟩,
    ⟨.rks, 0x100, 176⟩ ]

/-- R62: the size of the register window. -/
def windowSize : Nat := 0x400

/-- The register an offset belongs to, and the byte's number in it. -/
def locate (o : Nat) : Region × Nat :=
  match windowMap.find? (fun w => decide (w.base ≤ o) && decide (o < w.base + w.size)) with
  | some w => (w.region, o - w.base)
  | none => (.reserved, 0)

/-- R24, R63: byte `i` of a length register's word: the 8-bit field is its last byte, the others read 0. -/
def lengthByte (len : Byte) (i : Nat) : Byte := if i = 3 then len else 0

/-- R24, R65 item 3: a write to byte `i` of a length register's word; only its last byte is stored. -/
def setLengthByte (len : Byte) (i : Nat) (v : Byte) : Byte := if i = 3 then v else len

/-- R63, R65, R66: the byte at a window offset. A read has no side effect, so this is a plain function of the state. -/
def readByte (s : State) (o : Nat) : Byte :=
  match locate o with
  | (.cmd, _) => 0
  | (.status, i) => if i = 3 then statusByte s else 0
  | (.keylen, i) => lengthByte s.keylen i
  | (.twklen, i) => lengthByte s.twklen i
  | (.alen, i) => lengthByte s.alen i
  | (.dlen, i) => lengthByte s.dlen i
  | (.key, i) => s.key.byteAt i
  | (.twk, i) => s.twk.byteAt i
  | (.blk, i) => s.blk.byteAt i
  | (.abuf, i) => s.abuf.byteAt i
  | (.dbuf, i) => s.dbuf.byteAt i
  | (.rks, i) => s.rks.byteAt i
  | (.reserved, _) => 0

/-- R65, R66: a host write of one byte. A write to a byte of KEY also clears STATUS.RKV; writes to STATUS, RKS and the
reserved offsets are ignored; CMD stores nothing (a 4-byte write to it issues a command instead, `Machine.issue`). -/
def writeByte (s : State) (o : Nat) (v : Byte) : State :=
  match locate o with
  | (.cmd, _) => s
  | (.status, _) => s
  | (.keylen, i) => { s with keylen := setLengthByte s.keylen i v }
  | (.twklen, i) => { s with twklen := setLengthByte s.twklen i v }
  | (.alen, i) => { s with alen := setLengthByte s.alen i v }
  | (.dlen, i) => { s with dlen := setLengthByte s.dlen i v }
  | (.key, i) => { s with key := s.key.setByte i v, rkv := false }
  | (.twk, i) => { s with twk := s.twk.setByte i v }
  | (.blk, i) => { s with blk := s.blk.setByte i v }
  | (.abuf, i) => { s with abuf := s.abuf.setByte i v }
  | (.dbuf, i) => { s with dbuf := s.dbuf.setByte i v }
  | (.rks, _) => s
  | (.reserved, _) => s

/-- R63: a 4-byte read, big-endian. -/
def readWord (s : State) (o : Nat) : Word :=
  wordOfBytes (readByte s o) (readByte s (o + 1)) (readByte s (o + 2)) (readByte s (o + 3))

/-- R63, R67: a 4-byte write, big-endian; the four bytes are written in one step. -/
def writeWord (s : State) (o : Nat) (v : Word) : State :=
  let s1 := writeByte s o (wordByte v 0)
  let s2 := writeByte s1 (o + 1) (wordByte v 1)
  let s3 := writeByte s2 (o + 2) (wordByte v 2)
  writeByte s3 (o + 3) (wordByte v 3)

end Sys2Proof.Machine
end

