-- ==== Sys2Proof/Machine/Operands.lean ====
section
/-! DEFINITION. The operands of the commands: key halves, round keys, tweaks and buffer inputs (rules R22 to R30, R82). -/

namespace Sys2Proof.Machine

/-- R23: `KEYA = KEY[0..16)`. -/
def State.keyA (s : State) : Block := s.key.slice 0 16

/-- R23: `KEYB = KEY[16..32)`. -/
def State.keyB (s : State) : Block := s.key.slice 16 16

/-- R82: the key half that KSEL selects. -/
def State.keyHalf (s : State) : KeySel → Block
  | .a => s.keyA
  | .b => s.keyB

/-- R30, R147: round key `r` of a schedule, `bytes 16r .. 16r+15`. -/
def roundKeyOf (rks : Bytes 176) (r : Nat) : Block := rks.slice (16 * r) 16

/-- R25: the 8-byte ND tweak, `TWK[0..8)`. -/
def State.twk8 (s : State) : Bytes 8 := s.twk.slice 0 8

/-- R28: the input text `ABUF[0..ALEN)`. -/
def State.text (s : State) : Text := s.abuf.firstBytes s.alen.toNat

/-- R29: the input data `DBUF[0..DLEN)`. -/
def State.data (s : State) : List Byte := s.dbuf.firstBytes s.dlen.toNat

end Sys2Proof.Machine
end

