-- ==== Sys2Proof/Machine/Rounds.lean ====
section
/-! DEFINITION. The AES round transforms on a block (rules R13, R170 to R177). -/

namespace Sys2Proof

/-- R170: `SubBytes(s)[i] = SBOX[s[i]]`. -/
def subBytes (s : Block) : Block := Bytes.build 16 fun i => sbox (s.byteAt i)

/-- R171: `InvSubBytes(s)[i] = INV_SBOX[s[i]]`. -/
def invSubBytes (s : Block) : Block := Bytes.build 16 fun i => invSbox (s.byteAt i)

/-- R172: `ShiftRows(s)[r + 4c] = s[r + 4·((c + r) mod 4)]`; here `i = r + 4c`. -/
def shiftRows (s : Block) : Block := Bytes.build 16 fun i => s.byteAt (i % 4 + 4 * ((i / 4 + i % 4) % 4))

/-- R173: `InvShiftRows(s)[r + 4c] = s[r + 4·((c - r) mod 4)]`. -/
def invShiftRows (s : Block) : Block := Bytes.build 16 fun i => s.byteAt (i % 4 + 4 * ((i / 4 + 4 - i % 4) % 4))

/-- R175, R176: `out[r + 4c] = ⊕_{j=0..3} M[r][j] • a_j` with `a_j = s[j + 4c]`, for the circulant M of a coefficient row. -/
def mixWith (row : List Byte) (s : Block) : Block :=
  Bytes.build 16 fun i =>
    gmul (circulant row (i % 4) 0) (s.byteAt (0 + 4 * (i / 4))) ^^^
    gmul (circulant row (i % 4) 1) (s.byteAt (1 + 4 * (i / 4))) ^^^
    gmul (circulant row (i % 4) 2) (s.byteAt (2 + 4 * (i / 4))) ^^^
    gmul (circulant row (i % 4) 3) (s.byteAt (3 + 4 * (i / 4)))

/-- R175 -/
def mixColumns (s : Block) : Block := mixWith mixRow s

/-- R176 -/
def invMixColumns (s : Block) : Block := mixWith invMixRow s

/-- R177: `AddRoundKey(s, k) = s ⊕ k`. -/
def addRoundKey (s k : Block) : Block := s.xor k

end Sys2Proof
end

