-- ==== Sys2Proof/Machine/Cipher.lean ====
section
/-! DEFINITION. The full cipher, its KIASU-BC form and the XEX construction (rules R200 to R203, R208). -/

namespace Sys2Proof

/-- R200: `T[4i] = t[2i]`, `T[4i+1] = t[2i+1]`, `T[4i+2] = T[4i+3] = 0`. -/
def pad8 (t : Bytes 8) : Block := Bytes.build 16 fun i => if i % 4 < 2 then t.byteAt (2 * (i / 4) + i % 4) else 0

/-- R202: one main round of Encrypt under round key `rk` and round tweak `t`. -/
def encryptRound (rk t s : Block) : Block := (addRoundKey (mixColumns (shiftRows (subBytes s))) rk).xor t

/-- R203: one main round of Decrypt. -/
def decryptRound (rk t s : Block) : Block := invSubBytes (invShiftRows (invMixColumns ((addRoundKey s rk).xor t)))

/-- R202: `Encrypt(k, p, T)` over an expanded key. -/
def encryptWith (rks : Bytes 176) (p t : Block) : Block :=
  let s0 := (addRoundKey p (Machine.roundKeyOf rks 0)).xor t
  let s9 := [1, 2, 3, 4, 5, 6, 7, 8, 9].foldl (fun s r => encryptRound (Machine.roundKeyOf rks r) t s) s0
  (addRoundKey (shiftRows (subBytes s9)) (Machine.roundKeyOf rks 10)).xor t

/-- R203: `Decrypt(k, c, T)` over an expanded key. -/
def decryptWith (rks : Bytes 176) (c t : Block) : Block :=
  let s10 := invSubBytes (invShiftRows ((addRoundKey c (Machine.roundKeyOf rks 10)).xor t))
  let s1 := [9, 8, 7, 6, 5, 4, 3, 2, 1].foldl (fun s r => decryptRound (Machine.roundKeyOf rks r) t s) s10
  (addRoundKey s1 (Machine.roundKeyOf rks 0)).xor t

/-- R202: `Encrypt(k, p, T)`. The key is expanded here, within the command (R201). -/
def encrypt (k p t : Block) : Block := encryptWith (keyExpand k) p t

/-- R203: `Decrypt(k, c, T)`. -/
def decrypt (k c t : Block) : Block := decryptWith (keyExpand k) c t

/-- R208: `XexE(tw, K2) = Encrypt(K2, tw, zeros(16))`, the tweak mask. -/
def xexMask (tw k2 : Block) : Block := encrypt k2 tw (zeros 16)

/-- R208 -/
def xexEncrypt (k1 k2 tw p : Block) : Block :=
  (encrypt k1 (p.xor (xexMask tw k2)) (zeros 16)).xor (xexMask tw k2)

/-- R208: the mask is computed with the forward cipher in this direction too. -/
def xexDecrypt (k1 k2 tw c : Block) : Block :=
  (decrypt k1 (c.xor (xexMask tw k2)) (zeros 16)).xor (xexMask tw k2)

end Sys2Proof
end

