-- ==== Sys2Proof/Machine/BlockCommands.lean ====
section
/-! DEFINITION. The block commands (rules R204 to R207, R209, R210). They read no length register, and neither read nor
write RKS, RKV or RKSEL (R201). -/

namespace Sys2Proof.Machine

/-- R204 AES_ENC -/
def execAesEnc (k : KeySel) (s : State) : Result := complete (s.setBlk (encrypt (s.keyHalf k) s.blk (zeros 16)))

/-- R205 AES_DEC -/
def execAesDec (k : KeySel) (s : State) : Result := complete (s.setBlk (decrypt (s.keyHalf k) s.blk (zeros 16)))

/-- R206 KIASU_ENC -/
def execKiasuEnc (k : KeySel) (s : State) : Result := complete (s.setBlk (encrypt (s.keyHalf k) s.blk (pad8 s.twk8)))

/-- R207 KIASU_DEC -/
def execKiasuDec (k : KeySel) (s : State) : Result := complete (s.setBlk (decrypt (s.keyHalf k) s.blk (pad8 s.twk8)))

/-- R209 XEX_ENC: K1 = KEYA, K2 = KEYB, the 16-byte tweak TWK. -/
def execXexEnc (s : State) : Result := complete (s.setBlk (xexEncrypt s.keyA s.keyB s.twk s.blk))

/-- R210 XEX_DEC -/
def execXexDec (s : State) : Result := complete (s.setBlk (xexDecrypt s.keyA s.keyB s.twk s.blk))

end Sys2Proof.Machine
end

