-- ==== Sys2Proof/Machine/Codec.lean ====
section
/-! DEFINITION. The address codec: Parse, Format, Hex and Unhex as functions on text (rules R60, R61, R76, R100 to R108). -/

namespace Sys2Proof

/-! ### Characters (R76) -/

def chColon : Byte := 0x3A
def chDot : Byte := 0x2E
def chOpen : Byte := 0x5B
def chClose : Byte := 0x5D
def chZero : Byte := 0x30

/-- R103: a byte in '0'..'9'. -/
def isDecDigit (c : Byte) : Bool := decide (0x30 ≤ c.toNat) && decide (c.toNat ≤ 0x39)

/-- R108: `val` of a hex digit in either case, if the character is one. -/
def hexVal (c : Byte) : Option Nat :=
  if 0x30 ≤ c.toNat ∧ c.toNat ≤ 0x39 then some (c.toNat - 0x30)
  else if 0x61 ≤ c.toNat ∧ c.toNat ≤ 0x66 then some (c.toNat - 0x61 + 10)
  else if 0x41 ≤ c.toNat ∧ c.toNat ≤ 0x46 then some (c.toNat - 0x41 + 10)
  else none

/-- R104: a hex digit of either case. -/
def isHexDigit (c : Byte) : Bool := (hexVal c).isSome

/-- R107: `nib(x)`, character x of `0123456789abcdef`. -/
def nib (x : Nat) : Byte := if x < 10 then BitVec.ofNat 8 (0x30 + x) else BitVec.ofNat 8 (0x61 + (x - 10))

/-! ### Splitting -/

/-- Split a text at every occurrence of `sep`; there is always at least one part. -/
def splitAt (sep : Byte) : Text → List Text
  | [] => [[]]
  | c :: cs =>
    if c = sep then [] :: splitAt sep cs
    else
      match splitAt sep cs with
      | [] => [[c]]
      | g :: gs => (c :: g) :: gs

/-- `join(sep, parts)`; the join of no part is the empty text (R106). -/
def joinWith (sep : Byte) : List Text → Text
  | [] => []
  | [g] => g
  | g :: gs => g ++ sep :: joinWith sep gs

/-! ### Parsing IPv4 text -/

/-- R103: the decimal value of a text of digits. -/
def decValue (p : Text) : Nat := p.foldl (fun v c => 10 * v + (c.toNat - 0x30)) 0

/-- R103: the checks on one part, and its value. -/
def parseOctet (p : Text) : Option Byte :=
  if p.length < 1 ∨ p.length > 3 then none
  else if p.all isDecDigit = false then none
  else if p.length > 1 ∧ p.head? = some chZero then none
  else if decValue p > 255 then none
  else some (BitVec.ofNat 8 (decValue p))

/-- R103: the four values of IPv4 text, in text order. -/
def parseV4 (t : Text) : Option (List Byte) :=
  match splitAt chDot t with
  | [p0, p1, p2, p3] =>
    match parseOctet p0, parseOctet p1, parseOctet p2, parseOctet p3 with
    | some a, some b, some c, some d => some [a, b, c, d]
    | _, _, _, _ => none
  | _ => none

/-- R60, R102: the IPv4-mapped prefix, `zeros(10) ‖ 0xff ‖ 0xff`. -/
def mappedPrefix : List Byte := [0, 0, 0, 0, 0, 0, 0, 0, 0, 0, 0xff, 0xff]

/-! ### Parsing IPv6 text -/

/-- R104: does the text contain ":::"? -/
def hasTripleColon : Text → Bool
  | a :: b :: c :: rest =>
    (a == chColon && b == chColon && c == chColon) || hasTripleColon (b :: c :: rest)
  | _ => false

/-- R104: at how many places does "::" stand? -/
def countDoubleColon : Text → Nat
  | a :: b :: rest => (if a = chColon ∧ b = chColon then 1 else 0) + countDoubleColon (b :: rest)
  | _ => 0

/-- R104: the text before and after the first "::". -/
def splitDoubleColon : Text → Option (Text × Text)
  | a :: b :: rest =>
    if a = chColon ∧ b = chColon then some ([], rest)
    else (splitDoubleColon (b :: rest)).map fun (l, r) => (a :: l, r)
  | _ => none

/-- R104: the groups on one side of the "::"; an empty side has none. -/
def sideGroups (u : Text) : List Text := if u = [] then [] else splitAt chColon u

/-- R104: the hexadecimal value of a text. Characters were checked before; one that is no hex digit would count 0. -/
def hexValue (x : Text) : Nat := x.foldl (fun v c => 16 * v + (hexVal c).getD 0) 0

/-- R104: one group is at most 4 hex digits; its two bytes, big-endian. -/
def groupBytes (x : Text) : Option (List Byte) :=
  if x.length > 4 then none
  else some [BitVec.ofNat 8 (hexValue x / 256), BitVec.ofNat 8 (hexValue x % 256)]

/-- R104: the bytes of all groups, in order. -/
def groupsBytes : List Text → Option (List Byte)
  | [] => some []
  | x :: xs =>
    match groupBytes x, groupsBytes xs with
    | some b, some bs => some (b ++ bs)
    | _, _ => none

/-- R104: the groups of IPv6 text, with the "::" expanded; exactly 8 of them. -/
def v6Groups (u : Text) : Option (List Text) :=
  match splitDoubleColon u with
  | some (l, r) =>
    let lg := sideGroups l
    let rg := sideGroups r
    if lg.contains [] || rg.contains [] then none
    else if lg.length + rg.length > 7 then none
    else some (lg ++ List.replicate (8 - (lg.length + rg.length)) [chZero] ++ rg)
  | none =>
    let g := splitAt chColon u
    if g.length ≠ 8 then none else if g.contains [] then none else some g

/-- R104: ParseV6. -/
def parseV6 (u : Text) : Option Block :=
  if u.all (fun c => isHexDigit c || c == chColon) = false then none
  else if hasTripleColon u then none
  else if countDoubleColon u ≥ 2 then none
  else
    match v6Groups u with
    | none => none
    | some g => (groupsBytes g).map (Bytes.fill 16)

/-- R102: the text inside a leading '[' and a final ']', if the text has both and at least 2 characters. -/
def unbracket (t : Text) : Option Text :=
  if t.length < 2 ∨ t.getLast? ≠ some chClose then none else some ((t.drop 1).dropLast)

/-- R102: Parse, the top-level dispatch. `none` is failure with InvalidAddress. -/
def parse (t : Text) : Option Block :=
  if t.length = 0 ∨ t.length > 64 then none
  else if t.head? = some chOpen then
    match unbracket t with
    | none => none
    | some u => if u.contains chColon = false then none else parseV6 u
  else if t.contains chColon then parseV6 t
  else (parseV4 t).map fun q => Bytes.fill 16 (mappedPrefix ++ q)

/-! ### Formatting -/

/-- R105: the decimal spelling of a byte, with no leading zeros. -/
def dec (x : Byte) : Text :=
  let n := x.toNat
  if n < 10 then [nib n]
  else if n < 100 then [nib (n / 10), nib (n % 10)]
  else [nib (n / 100), nib (n / 10 % 10), nib (n % 10)]

/-- R106: a 16-bit value in lowercase hexadecimal, with no leading zeros. -/
def hex4 (n : Nat) : Text :=
  if n < 16 then [nib n]
  else if n < 256 then [nib (n / 16), nib (n % 16)]
  else if n < 4096 then [nib (n / 256), nib (n / 16 % 16), nib (n % 16)]
  else [nib (n / 4096), nib (n / 256 % 16), nib (n / 16 % 16), nib (n % 16)]

/-- R60: group `g` of a block, the big-endian value `b[2g]·256 + b[2g+1]`. -/
def groupOf (b : Block) (g : Nat) : Nat := (b.byteAt (2 * g)).toNat * 256 + (b.byteAt (2 * g + 1)).toNat

/-- R106: the 8 groups of a block. -/
def groupsOf (b : Block) : List Nat := (List.range 8).map (groupOf b)

/-- R106: how many zero groups a list starts with. -/
def leadingZeros : List Nat → Nat
  | [] => 0
  | g :: gs => if g = 0 then leadingZeros gs + 1 else 0

/-- R106: start and length of the longest run of zero groups; among runs of equal maximal length, the leftmost. `i` is the
index of the list's first group. Length 0 means there is no zero group. -/
def longestZeroRun (i : Nat) : List Nat → Nat × Nat
  | [] => (i, 0)
  | g :: gs =>
    if leadingZeros (g :: gs) ≥ (longestZeroRun (i + 1) gs).2 then (i, leadingZeros (g :: gs))
    else longestZeroRun (i + 1) gs

/-- R105: is the block IPv4-mapped? The prefix is tested on the bytes. -/
def isMapped (b : Block) : Bool := b.firstBytes 12 == mappedPrefix

/-- R105: the dotted form of the last four bytes. -/
def format4 (b : Block) : Text :=
  joinWith chDot [dec (b.byteAt 12), dec (b.byteAt 13), dec (b.byteAt 14), dec (b.byteAt 15)]

/-- R106: Format6. -/
def format6 (b : Block) : Text :=
  let g := groupsOf b
  match longestZeroRun 0 g with
  | (s, len) =>
    if len < 2 then joinWith chColon (g.map hex4)
    else
      joinWith chColon ((g.take s).map hex4) ++ [chColon, chColon] ++ joinWith chColon ((g.drop (s + len)).map hex4)

/-- R100, R105, R106: Format; it never fails. -/
def format (b : Block) : Text := if isMapped b then format4 b else format6 b

/-! ### Hex text -/

/-- R107: Hex(d), two characters a byte, the high nibble first (R61). -/
def hex (d : List Byte) : Text := d.flatMap fun x => [nib (x.toNat / 16), nib (x.toNat % 16)]

/-- R108: Unhex(t) of a text of even length; `none` is failure with InvalidHex. -/
def unhex : Text → Option (List Byte)
  | [] => some []
  | [_] => none
  | h :: l :: rest =>
    match hexVal h, hexVal l, unhex rest with
    | some x, some y, some e => some (BitVec.ofNat 8 (16 * x + y) :: e)
    | _, _, _ => none

end Sys2Proof
end

