-- ==== Sys2Proof/Machine/CodecCommands.lean ====
section
/-! DEFINITION. The address codec commands PARSE, FORMAT, HEXENC and HEXDEC (rules R109 to R112). -/

namespace Sys2Proof.Machine

/-- R109, R223, R226: the address input of a command: the block that ABUF[0..ALEN) parses to. `none` is InvalidAddress,
an ALEN over 64 among its causes. -/
def addressInput (s : State) : Option Block := if s.alen.toNat > 64 then none else Sys2Proof.parse s.text

/-- R109 PARSE -/
def execParse (s : State) : Result :=
  match addressInput s with
  | none => raise .invalidAddress s
  | some b => complete (s.setBlk b)

/-- R110 FORMAT -/
def execFormat (s : State) : Result := complete (s.setText (Sys2Proof.format s.blk))

/-- R111 HEXENC -/
def execHexenc (s : State) : Result :=
  if s.dlen.toNat > 32 then raise .invalidEncodedLength s
  else complete (s.setText (hex s.data))

/-- R112 HEXDEC: the length is checked before the characters (R274). -/
def execHexdec (s : State) : Result :=
  if s.alen.toNat > 64 ∨ s.alen.toNat % 2 = 1 then raise .invalidEncodedLength s
  else
    match unhex s.text with
    | none => raise .invalidHex s
    | some e => complete (s.setData e)

end Sys2Proof.Machine
end

