-- ==== Sys2Proof/Machine/Control.lean ====
section
/-! DEFINITION. The control commands NOP and CLEAR (rules R260, R261). -/

namespace Sys2Proof.Machine

/-- R260 NOP: STATUS.ERR <- OK, and nothing else. -/
def execNop (s : State) : Result := complete s

/-- R261 CLEAR: every register and every STATUS field at its reset value. -/
def execClear (s : State) : Result := complete s.resetRegisters

end Sys2Proof.Machine
end

