-- ==== Sys2Proof/Machine/Modes.lean ====
section
/-! DEFINITION. The mode commands (rules R220 to R235). Each checks its inputs in the order of R221, draws only once every
check has passed (R221, R225, R231), and then writes all of its outputs (R222). -/

namespace Sys2Proof.Machine

/-- R221 items 1 and 2: the first of InvalidKey and InvalidTweak that holds, for a mode with this key length and this
tweak length. -/
def modeCheck (keyLen twkLen : Nat) (s : State) : Option Err :=
  if s.keylen.toNat ≠ keyLen then some .invalidKey
  else if s.twklen.toNat ≠ 0 ∧ s.twklen.toNat ≠ twkLen then some .invalidTweak
  else none

/-- R225, R231: the tweak of an encrypt command with `n`-byte tweaks: the host's when TWKLEN = n, a draw when it is 0. -/
def chosenTweak (n : Nat) (s : State) : Bytes n :=
  if s.twklen.toNat = n then s.twk.slice 0 n else Bytes.fill n (drawBytes s n)

/-- R74, R225, R231: the state once the tweak is chosen; only a draw changes it. -/
def State.afterTweak (s : State) (n : Nat) : State := if s.twklen.toNat = n then s else s.afterDraw n

/-- R222, R224: the outputs of a decrypt or deterministic command: the block to BLK, its canonical text to ABUF and ALEN. -/
def State.setResult (s : State) (b : Block) : State := (s.setBlk b).setText (Sys2Proof.format b)

/-- R222, R226, R234: the outputs of ND_ENC and NDX_ENC: c to BLK, `t ‖ c` to DBUF and DLEN, its hex form to ABUF and ALEN. -/
def State.setEncoded {n : Nat} (s : State) (t : Bytes n) (c : Block) : State :=
  ((s.setBlk c).setData (t.cat c).bytes).setText (hex (t.cat c).bytes)

/-- R228: the host supplied a tweak and it differs from the stored tweak, the first `n` bytes of DBUF. -/
def tweakMismatch (n : Nat) (s : State) : Bool :=
  decide (s.twklen.toNat = n) && decide (s.twk.slice 0 n ≠ s.dbuf.slice 0 n)

/-- R223 DET_ENC: TWKLEN is not read. -/
def execDetEnc (s : State) : Result :=
  if s.keylen.toNat ≠ 16 then raise .invalidKey s
  else
    match addressInput s with
    | none => raise .invalidAddress s
    | some p => complete (s.setResult (encrypt s.keyA p (zeros 16)))

/-- R224 DET_DEC -/
def execDetDec (s : State) : Result :=
  if s.keylen.toNat ≠ 16 then raise .invalidKey s
  else
    match addressInput s with
    | none => raise .invalidAddress s
    | some c => complete (s.setResult (decrypt s.keyA c (zeros 16)))

/-- R226 ND_ENC -/
def execNdEnc (s : State) : Result :=
  match modeCheck 16 8 s with
  | some e => raise e s
  | none =>
    match addressInput s with
    | none => raise .invalidAddress s
    | some p =>
      let t : Bytes 8 := chosenTweak 8 s
      complete ((s.afterTweak 8).setEncoded t (encrypt s.keyA p (pad8 t)))

/-- R227 ND_DEC: the stored tweak is DBUF[0..8), the ciphertext DBUF[8..24). -/
def execNdDec (s : State) : Result :=
  match modeCheck 16 8 s with
  | some e => raise e s
  | none =>
    if s.dlen.toNat ≠ 24 then raise .invalidEncodedLength s
    else if tweakMismatch 8 s then raise .tweakMismatch s
    else complete (s.setResult (decrypt s.keyA (s.dbuf.slice 8 16) (pad8 (s.dbuf.slice 0 8))))

/-- R234 NDX_ENC -/
def execNdxEnc (s : State) : Result :=
  match modeCheck 32 16 s with
  | some e => raise e s
  | none =>
    match addressInput s with
    | none => raise .invalidAddress s
    | some p =>
      let t : Bytes 16 := chosenTweak 16 s
      complete ((s.afterTweak 16).setEncoded t (xexEncrypt s.keyA s.keyB t p))

/-- R235 NDX_DEC: the stored tweak is DBUF[0..16), the ciphertext DBUF[16..32). -/
def execNdxDec (s : State) : Result :=
  match modeCheck 32 16 s with
  | some e => raise e s
  | none =>
    if s.dlen.toNat ≠ 32 then raise .invalidEncodedLength s
    else if tweakMismatch 16 s then raise .tweakMismatch s
    else complete (s.setResult (xexDecrypt s.keyA s.keyB (s.dbuf.slice 0 16) (s.dbuf.slice 16 16)))

end Sys2Proof.Machine
end

