-- ==== Sys2Proof/Machine/Primitives.lean ====
section
/-! DEFINITION. KEYEXP and the primitive commands on BLK (rules R148, R179 to R191). -/

namespace Sys2Proof.Machine

/-- The template of R180 to R185: `BLK <- f(BLK); STATUS.ERR <- OK`. -/
def onBlock (f : Block → Block) (s : State) : Result := complete (s.setBlk (f s.blk))

/-- R179: RoundKeyCheck(R), BadOperand before NoSchedule (R274), and then `BLK <- f(BLK, RK[R]); STATUS.ERR <- OK`. -/
def withRoundKey (r : Nat) (f : Block → Block → Block) (s : State) : Result :=
  if r > 10 then raise .badOperand s
  else if s.rkv = false then raise .noSchedule s
  else complete (s.setBlk (f s.blk (roundKeyOf s.rks r)))

/-- R148 KEYEXP: expand the selected key half into RKS. -/
def execKeyexp (k : KeySel) (s : State) : Result := complete (s.setSchedule k (keyExpand (s.keyHalf k)))

/-- R180 SUBB -/
def execSubb (s : State) : Result := onBlock subBytes s

/-- R181 ISUBB -/
def execIsubb (s : State) : Result := onBlock invSubBytes s

/-- R182 SHR -/
def execShr (s : State) : Result := onBlock shiftRows s

/-- R183 ISHR -/
def execIshr (s : State) : Result := onBlock invShiftRows s

/-- R184 MIXC -/
def execMixc (s : State) : Result := onBlock mixColumns s

/-- R185 IMIXC -/
def execImixc (s : State) : Result := onBlock invMixColumns s

/-- R186 ADDRK r -/
def execAddrk (r : Nat) (s : State) : Result := withRoundKey r (fun b rk => addRoundKey b rk) s

/-- R187 ADDRKT r: round key and padded ND tweak; TWKLEN is not read. -/
def execAddrkt (r : Nat) (s : State) : Result :=
  withRoundKey r (fun b rk => addRoundKey b (rk.xor (pad8 s.twk8))) s

/-- R188 EROUND r: one main encrypt round. -/
def execEround (r : Nat) (s : State) : Result :=
  withRoundKey r (fun b rk => addRoundKey (mixColumns (shiftRows (subBytes b))) rk) s

/-- R189 EFINAL r: the final encrypt round, with no MixColumns. -/
def execEfinal (r : Nat) (s : State) : Result :=
  withRoundKey r (fun b rk => addRoundKey (shiftRows (subBytes b)) rk) s

/-- R190 DROUND r: one main decrypt round. -/
def execDround (r : Nat) (s : State) : Result :=
  withRoundKey r (fun b rk => invSubBytes (invShiftRows (invMixColumns (addRoundKey b rk)))) s

/-- R191 DINIT r: the first decrypt step. -/
def execDinit (r : Nat) (s : State) : Result :=
  withRoundKey r (fun b rk => invSubBytes (invShiftRows (addRoundKey b rk))) s

end Sys2Proof.Machine
end

