-- ==== Sys2Proof/Machine/Dispatch.lean ====
section
/-! DEFINITION. One arm per command: the meaning that the block runs for it (rule R84). -/

namespace Sys2Proof.Machine

def exec (i : Instr) (s : State) : Host.Outcome State Fault Refusal :=
  match i with
  | .nop => Sys2Proof.Machine.execNop s
  | .clear => Sys2Proof.Machine.execClear s
  | .keyexp k => Sys2Proof.Machine.execKeyexp k s
  | .subb => Sys2Proof.Machine.execSubb s
  | .isubb => Sys2Proof.Machine.execIsubb s
  | .shr => Sys2Proof.Machine.execShr s
  | .ishr => Sys2Proof.Machine.execIshr s
  | .mixc => Sys2Proof.Machine.execMixc s
  | .imixc => Sys2Proof.Machine.execImixc s
  | .addrk r => Sys2Proof.Machine.execAddrk r s
  | .addrkt r => Sys2Proof.Machine.execAddrkt r s
  | .eround r => Sys2Proof.Machine.execEround r s
  | .efinal r => Sys2Proof.Machine.execEfinal r s
  | .dround r => Sys2Proof.Machine.execDround r s
  | .dinit r => Sys2Proof.Machine.execDinit r s
  | .aesEnc k => Sys2Proof.Machine.execAesEnc k s
  | .aesDec k => Sys2Proof.Machine.execAesDec k s
  | .kiasuEnc k => Sys2Proof.Machine.execKiasuEnc k s
  | .kiasuDec k => Sys2Proof.Machine.execKiasuDec k s
  | .xexEnc => Sys2Proof.Machine.execXexEnc s
  | .xexDec => Sys2Proof.Machine.execXexDec s
  | .parse => Sys2Proof.Machine.execParse s
  | .format => Sys2Proof.Machine.execFormat s
  | .hexenc => Sys2Proof.Machine.execHexenc s
  | .hexdec => Sys2Proof.Machine.execHexdec s
  | .detEnc => Sys2Proof.Machine.execDetEnc s
  | .detDec => Sys2Proof.Machine.execDetDec s
  | .ndEnc => Sys2Proof.Machine.execNdEnc s
  | .ndDec => Sys2Proof.Machine.execNdDec s
  | .ndxEnc => Sys2Proof.Machine.execNdxEnc s
  | .ndxDec => Sys2Proof.Machine.execNdxDec s

end Sys2Proof.Machine
end

