-- ==== Sys2Proof/Machine/Engine.lean ====
section
/-! DEFINITION. What happens in one slot: the command engine (rules R85, R305, R306), the bus port (R64 to R67, R279, R280,
R307) and the reset input (R301, R302). One step of the machine is one slot: at most one host access, and then the passing
of one unit of a running command's LATENCY (log entry 1). -/

namespace Sys2Proof.Machine

/-- R85, R305: the command word `v` takes effect. A word that is no command raises IllegalCommand. -/
def runCommand (v : Word) (s : State) : Result :=
  match decode v with
  | .ok i => exec i s
  | .error _ => raise .illegalCommand s

/-- R33, R305, R306: a 4-byte write to CMD. With LATENCY 0 the command takes effect at the write, the atomic model of R305;
with LATENCY k + 1 BUSY reads 1 in the next k + 1 slots, and the command takes effect at the end of them. -/
def issue (v : Word) (s : State) : Result :=
  match s.latency with
  | [] => runCommand v s
  | 0 :: ls => runCommand v { s with latency := ls }
  | (k + 1) :: ls => .next { s with latency := ls, inflight := some ⟨v, k⟩ }

/-- R306: one unit of the running command's LATENCY passes; at the last, the command takes effect and BUSY is 0. -/
def tick (s : State) : Result :=
  match s.inflight with
  | none => .next s
  | some ⟨v, 0⟩ => runCommand v { s with inflight := none }
  | some ⟨v, k + 1⟩ => .next { s with inflight := some ⟨v, k⟩ }

/-- R64: the width and the offset of an access. -/
def Access.width : Access → Nat
  | .read w _ => w
  | .write w _ _ => w

def Access.offset : Access → Nat
  | .read _ o => o
  | .write _ o _ => o

/-- R64: a 1-byte access at any offset but those of CMD, or an aligned 4-byte access. -/
def legalAccess (w o : Nat) : Bool := (w == 1 && decide (4 ≤ o)) || (w == 4 && o % 4 == 0)

/-- R64, R306: a read of STATUS, the one access the host may make while BUSY is 1. -/
def isStatusRead : Access → Bool
  | .read _ o => decide (4 ≤ o) && decide (o ≤ 7)
  | .write _ _ _ => false

/-- R64, U2: a read's value cut to its width, in bits 7:0 for a 1-byte read. -/
def widthOf (w : Nat) (v : Word) : Word := if w = 1 then (v.setWidth 8).setWidth 32 else v

/-- R63, R65, R66: the value of a legal read. -/
def memRead (s : State) (w o : Nat) : Word := if w = 1 then (readByte s o).setWidth 32 else readWord s o

/-- R63, R65, R66: the effect of a legal write other than one to CMD. -/
def memWrite (s : State) (w o : Nat) (v : Word) : State :=
  if w = 1 then writeByte s o (v.setWidth 8) else writeWord s o v

/-- R280, R306, R307: an access that breaks the BUSY protocol. A write is dropped and sets STATUS.OVR; a read returns an
unspecified value and has no effect. -/
def violate (a : Access) (s : State) : State :=
  match a with
  | .read w _ => { s with free := s.free + 1, resp := .data w (widthOf w (Config.unspecifiedWord s.free)) }
  | .write _ _ _ => { s with ovr := true, resp := .dropped }

/-- R64, R65: a legal access that keeps the protocol. A 4-byte write to CMD issues its value as a command. -/
def serve (a : Access) (s : State) : Result :=
  match a with
  | .read w o => .next { s with resp := .data w (memRead s w o) }
  | .write w o v =>
    if o < 4 then issue v { s with resp := .done } else .next { memWrite s w o v with resp := .done }

/-- R62, R64: BusAccess. An offset outside the window is no address of the block (log entry 6). A bus error changes no
register and is seen on the bus only (R279). -/
def busAccess (a : Access) (s : State) : Result :=
  if a.offset ≥ windowSize then .fault (.outsideWindow a.offset)
  else if legalAccess a.width a.offset = false then .next { s with resp := .busError }
  else if s.busy && !isStatusRead a then .next (violate a s)
  else serve a s

/-- R301, R302: the reset input. A command in flight is abandoned, and an access cut by reset has no defined result. -/
def platformReset (cut : Option Access) (s : State) : State :=
  match cut with
  | none => { s.resetRegisters with resp := .quiet }
  | some _ => { s.resetRegisters with free := s.free + 1, resp := .cut (Config.unspecifiedWord s.free) }

/-- R306, R89: one round of `wait`: read STATUS, and if its BUSY bit is 1 poll again in the next slot. -/
def poll (s : State) : State :=
  let v := memRead s 4 4
  { s with resp := .data 4 v, host := if v.getLsbD 6 then .wait :: s.host else s.host }

/-- What the host's or platform's action does in its slot; the rest of the host's actions stands in `s.host`. -/
def act (a : HostAction) (s : State) : Result :=
  match a with
  | .access b => busAccess b s
  | .wait => .next (poll s)
  | .idle => .next { s with resp := .quiet }
  | .reset cut => .next (platformReset cut s)

/-- The slot of one action. A command that was in flight when the slot began has one unit less to run after it; reset
abandons it, and a command issued in this slot starts its LATENCY with the next. -/
def slot (a : HostAction) (s : State) : Result :=
  if s.busy then andThen (act a s) tick else act a s

/-- R16, R21: take the host's next action. A host with nothing to do makes no access (log entry 10). -/
def nextSlot (s : State) : Result :=
  match s.host with
  | [] => slot .idle s
  | a :: rest => slot a { s with host := rest }

end Sys2Proof.Machine
end

