-- ==== Sys2Proof/Machine/Step.lean ====
section
/-! DEFINITION. One step of the machine, and where its next command comes from. -/

namespace Sys2Proof.Machine

/-- One step: the host's next action, and the passing of one unit of a running command's LATENCY. -/
def step (s : State) : Host.Outcome State Fault Refusal := nextSlot s

/-- The block has no program counter and fetches nothing (R21, R68): the next command is the host's next CMD write. So
the word stands as the value of a 4-byte write to CMD at the head of the host's actions, with no command in flight before
it and LATENCY 0 for it (log entry 5). -/
def State.withFetchWord (s : State) (nbits w : Nat) : State :=
  { s with
    host := .access (.write 4 0 (BitVec.ofNat 32 (w % 2 ^ nbits))) :: s.host
    latency := 0 :: s.latency
    inflight := none }

end Sys2Proof.Machine
end

