-- ==== Sys2Proof/Machine/HostOps.lean ====
section
/-! DEFINITION. What the host writes down: bus addresses (rules R9, R62), its pseudo-instructions (R89) and the command
sequences that have names (R90). None of them is a command of the block. -/

namespace Sys2Proof.Machine

/-- R9, R62: the window offset of a bus address, for a window placed at `base`; the block decodes no other address. BASE is
an argument: any value is possible (log entry 7). -/
def windowOffset (base addr : Nat) : Option Nat :=
  if base ≤ addr ∧ addr < base + windowSize then some (addr - base) else none

/-- R89 -/
def wr32 (o : Nat) (v : Word) : List HostAction := [.access (.write 4 o v)]

/-- R89 -/
def wr8 (o : Nat) (v : Byte) : List HostAction := [.access (.write 1 o (v.setWidth 32))]

/-- R89 -/
def rd32 (o : Nat) : List HostAction := [.access (.read 4 o)]

/-- R89 -/
def rd8 (o : Nat) : List HostAction := [.access (.read 1 o)]

/-- R89: a `wr8` for each byte of `h`, from offset `o` up. -/
def wrBytes (o : Nat) : List Byte → List HostAction
  | [] => []
  | b :: bs => wr8 o b ++ wrBytes (o + 1) bs

/-- R89: the bytes to a buffer, and then their number to its length register. -/
def load (bufOffset lenOffset : Nat) (h : List Byte) : List HostAction :=
  wrBytes bufOffset h ++ wr32 lenOffset (BitVec.ofNat 32 h.length)

/-- R89 -/
def ldkey (h : List Byte) : List HostAction := load 0x020 0x008 h

/-- R89: with no byte it writes TWKLEN = 0, "tweak omitted". -/
def ldtwk (h : List Byte) : List HostAction := load 0x040 0x00C h

/-- R89 -/
def ldblk (h : Block) : List HostAction := wrBytes 0x050 h.bytes

/-- R89 -/
def ldstr (t : Text) : List HostAction := load 0x060 0x010 t

/-- R89 -/
def lddat (h : List Byte) : List HostAction := load 0x0A0 0x014 h

/-- R89: `cmd M x`, that is `wr32 0x000, enc(M, x)` and then `wait`. -/
def cmd (i : Instr) : List HostAction := wr32 0x000 (encode i) ++ [.wait]

/-- R90 AES128E. -/
def aes128E : List Instr :=
  [.keyexp .a, .addrk 0] ++ [1, 2, 3, 4, 5, 6, 7, 8, 9].map .eround ++ [.efinal 10]

/-- R90 AES128D. -/
def aes128D : List Instr :=
  [.keyexp .a, .dinit 10] ++ [9, 8, 7, 6, 5, 4, 3, 2, 1].map .dround ++ [.addrk 0]

/-- R90 KIASU128E. -/
def kiasu128E : List Instr :=
  [.keyexp .a, .addrkt 0] ++ [1, 2, 3, 4, 5, 6, 7, 8, 9].flatMap (fun r => [.subb, .shr, .mixc, .addrkt r]) ++
    [.subb, .shr, .addrkt 10]

/-- The commands of a sequence, each on the state the one before it left. -/
def execAll : List Instr → State → Result
  | [], s => .next s
  | i :: is, s => andThen (exec i s) (execAll is)

end Sys2Proof.Machine
end

