-- ==== Sys2Proof/Safety.lean ====
section
/-! DEFINITION. The words in which claims about the machine are stated: what a stop is, the host protocol, the meaning of
STATUS.RKV, which registers a command may write and which error codes it may leave. -/

namespace Sys2Proof.Machine

/-- A result that is a next state, not a fault and not a refusal. -/
def Runs (r : Result) : Prop := ∃ t, r = .next t

/-- R62, R64: does the host's next action keep to the window's addresses? -/
def nextActionInWindow (s : State) : Bool :=
  match s.host with
  | .access a :: _ => decide (a.offset < windowSize)
  | _ => true

/-- R30, R31: STATUS.RKV says that RKS holds the expansion of a key half, the one RKSEL names. -/
def ScheduleValid (s : State) : Prop := s.rkv = true → s.rks = keyExpand (s.keyHalf s.rksel)

/-- R31, R305: a state in which the block is ready for a command, and its LATENCY will be 0 (the atomic model). -/
def ReadyAtomic (s : State) : Prop := s.inflight = none ∧ (s.latency = [] ∨ ∃ ls, s.latency = 0 :: ls)

/-- R20, R65, R66: the window offsets that a host write stores to: the last byte of each length register, and every byte
of KEY, TWK, BLK, ABUF and DBUF. -/
def hostWritable (o : Nat) : Bool :=
  (o == 0x00B || o == 0x00F || o == 0x013 || o == 0x017) || (decide (0x020 ≤ o) && decide (o ≤ 0x0BF))

/-- R20, R66: the reserved offsets of the window. -/
def reservedOffset (o : Nat) : Bool :=
  (decide (0x018 ≤ o) && decide (o ≤ 0x01F)) || (decide (0x0C0 ≤ o) && decide (o ≤ 0x0FF)) ||
    (decide (0x1B0 ≤ o) && decide (o ≤ 0x3FF))

/-- An offset of BLK. -/
def inBlk (o : Nat) : Bool := decide (0x050 ≤ o) && decide (o ≤ 0x05F)

/-- An offset of ABUF or ALEN. -/
def inText (o : Nat) : Bool := (decide (0x060 ≤ o) && decide (o ≤ 0x09F)) || (decide (0x010 ≤ o) && decide (o ≤ 0x013))

/-- An offset of DBUF or DLEN. -/
def inData (o : Nat) : Bool := (decide (0x0A0 ≤ o) && decide (o ≤ 0x0BF)) || (decide (0x014 ≤ o) && decide (o ≤ 0x017))

/-- An offset of RKS. -/
def inSchedule (o : Nat) : Bool := decide (0x100 ≤ o) && decide (o ≤ 0x1AF)

/-- An offset of STATUS. -/
def inStatus (o : Nat) : Bool := decide (0x004 ≤ o) && decide (o ≤ 0x007)

/-- R34: the window offsets, STATUS apart, that a command has a "w" for. -/
def mayWrite (i : Instr) (o : Nat) : Bool :=
  match i with
  | .nop => false
  | .clear => true
  | .keyexp _ => inSchedule o
  | .subb | .isubb | .shr | .ishr | .mixc | .imixc => inBlk o
  | .addrk _ | .addrkt _ | .eround _ | .efinal _ | .dround _ | .dinit _ => inBlk o
  | .aesEnc _ | .aesDec _ | .kiasuEnc _ | .kiasuDec _ | .xexEnc | .xexDec => inBlk o
  | .parse => inBlk o
  | .format | .hexenc => inText o
  | .hexdec => inData o
  | .detEnc | .detDec => inBlk o || inText o
  | .ndEnc | .ndxEnc => inBlk o || inText o || inData o
  | .ndDec | .ndxDec => inBlk o || inText o

/-- R271: the error codes a command can leave besides OK, once its word has decoded. -/
def errorsOf : Instr → List Err
  | .nop | .clear | .keyexp _ => []
  | .subb | .isubb | .shr | .ishr | .mixc | .imixc => []
  | .addrk _ | .addrkt _ | .eround _ | .efinal _ | .dround _ | .dinit _ => [.badOperand, .noSchedule]
  | .aesEnc _ | .aesDec _ | .kiasuEnc _ | .kiasuDec _ | .xexEnc | .xexDec => []
  | .parse => [.invalidAddress]
  | .format => []
  | .hexenc => [.invalidEncodedLength]
  | .hexdec => [.invalidEncodedLength, .invalidHex]
  | .detEnc | .detDec => [.invalidKey, .invalidAddress]
  | .ndEnc | .ndxEnc => [.invalidKey, .invalidTweak, .invalidAddress]
  | .ndDec | .ndxDec => [.invalidKey, .invalidTweak, .invalidEncodedLength, .tweakMismatch]

/-- R15, R220: the mode commands. -/
def isMode : Instr → Bool
  | .detEnc | .detDec | .ndEnc | .ndDec | .ndxEnc | .ndxDec => true
  | .nop | .clear | .keyexp _ | .subb | .isubb | .shr | .ishr | .mixc | .imixc => false
  | .addrk _ | .addrkt _ | .eround _ | .efinal _ | .dround _ | .dinit _ => false
  | .aesEnc _ | .aesDec _ | .kiasuEnc _ | .kiasuDec _ | .xexEnc | .xexDec => false
  | .parse | .format | .hexenc | .hexdec => false

/-- R15, R201: the block commands. -/
def isBlockCommand : Instr → Bool
  | .aesEnc _ | .aesDec _ | .kiasuEnc _ | .kiasuDec _ | .xexEnc | .xexDec => true
  | .nop | .clear | .keyexp _ | .subb | .isubb | .shr | .ishr | .mixc | .imixc => false
  | .addrk _ | .addrkt _ | .eround _ | .efinal _ | .dround _ | .dinit _ => false
  | .parse | .format | .hexenc | .hexdec => false
  | .detEnc | .detDec | .ndEnc | .ndDec | .ndxEnc | .ndxDec => false

/-- R76: the characters the parser can accept. -/
def isAddressChar (c : Byte) : Bool :=
  isHexDigit c || c == chDot || c == chColon || c == chOpen || c == chClose

/-- R76: the characters of text that the block writes. -/
def isOutputChar (c : Byte) : Bool :=
  isDecDigit c || (decide (0x61 ≤ c.toNat) && decide (c.toNat ≤ 0x66)) || c == chDot || c == chColon

/-- R306: what a slot of the BUSY window comes to once its bus access has left the state `t`: with slots still to come the
command `v` stays in flight, and in the last one it takes effect. -/
def windowSlot (v : Word) (left : Nat) (t : State) : Result :=
  match left with
  | 0 => runCommand v { t with inflight := none }
  | k + 1 => .next { t with inflight := some ⟨v, k⟩ }

/-! ### The spec's texts, apart from the codec that the commands use -/

/-- R107: the sixteen characters `0123456789abcdef`, by their ASCII codes. -/
def hexCharacters : List Byte :=
  [0x30, 0x31, 0x32, 0x33, 0x34, 0x35, 0x36, 0x37, 0x38, 0x39, 0x61, 0x62, 0x63, 0x64, 0x65, 0x66]

/-- R108: the digits with the letters `ABCDEF`. -/
def hexCapitals : List Byte :=
  [0x30, 0x31, 0x32, 0x33, 0x34, 0x35, 0x36, 0x37, 0x38, 0x39, 0x41, 0x42, 0x43, 0x44, 0x45, 0x46]

/-- R108: the character `c` is a hex digit of either case, and `x` is its value. -/
def HexDigitIs (c : Byte) (x : Nat) : Prop := hexCharacters[x]? = some c ∨ hexCapitals[x]? = some c

/-- R105, R106: a number's spelling in base 10 or 16, with no leading zeros and lowercase letters; 0 is `0`. -/
def numeral (base n : Nat) : Text := (Nat.toDigits base n).map fun c => BitVec.ofNat 8 c.toNat

/-- R60: the IPv6 group `g` of a block. -/
def blockGroup (b : Block) (g : Nat) : Nat := 256 * (b.byteAt (2 * g)).toNat + (b.byteAt (2 * g + 1)).toNat

/-- R60, R105: the block begins with ten zero bytes and two bytes 0xff. -/
abbrev HasMappedPrefix (b : Block) : Prop := (∀ i, i < 10 → b.byteAt i = 0) ∧ b.byteAt 10 = 0xff ∧ b.byteAt 11 = 0xff

/-- R105: the four dotted numbers of a block's last bytes. -/
def dottedText (b : Block) : Text :=
  List.intercalate [0x2E] ((List.range 4).map fun i => numeral 10 (b.byteAt (12 + i)).toNat)

/-- R106: the groups `lo..hi-1` of a block in lowercase hex, with colons between them. -/
def groupsText (b : Block) (lo hi : Nat) : Text :=
  List.intercalate [0x3A] ((List.range (hi - lo)).map fun j => numeral 16 (blockGroup b (lo + j)))

/-- R106: groups `s..s+len-1` of the block are all zero. -/
def ZeroRun (b : Block) (s len : Nat) : Prop := s + len ≤ 8 ∧ ∀ g, s ≤ g → g < s + len → blockGroup b g = 0

/-- R103: `t` is the dotted spelling of the IPv4-mapped block `b`. -/
def IsV4Text (t : Text) (b : Block) : Prop := HasMappedPrefix b ∧ t = dottedText b

/-- R104: `x` is a group of IPv6 text, 1 to 4 hex digits of either case, with the value `n`. -/
def IsGroupText (x : Text) (n : Nat) : Prop :=
  1 ≤ x.length ∧ x.length ≤ 4 ∧ ∃ ds : List Nat, List.Forall₂ HexDigitIs x ds ∧ n = Nat.ofDigits 16 ds.reverse

/-- R104: `u` is IPv6 text of the block `b`: eight groups, or at most seven with one `::` for the zero groups missing. -/
def IsV6Text (u : Text) (b : Block) : Prop :=
  ∃ (l r : List Text) (m n : List Nat), List.Forall₂ IsGroupText l m ∧ List.Forall₂ IsGroupText r n ∧
    ((l.length = 8 ∧ r = [] ∧ u = List.intercalate [0x3A] l ∧ (List.range 8).map (blockGroup b) = m) ∨
      (l.length + r.length ≤ 7 ∧ u = List.intercalate [0x3A] l ++ [0x3A, 0x3A] ++ List.intercalate [0x3A] r ∧
        (List.range 8).map (blockGroup b) = m ++ List.replicate (8 - (l.length + r.length)) 0 ++ n))

/-- R31: the same state but for RKS, STATUS.RKV and STATUS.RKSEL. -/
def State.withSchedule (s : State) (rk : Bytes 176) (v : Bool) (k : KeySel) : State :=
  { s with rks := rk, rkv := v, rksel := k }

/-- The next state of a result, changed by `f`; a stop stays as it is. -/
def mapNext (f : State → State) (r : Result) : Result := andThen r fun t => .next (f t)

end Sys2Proof.Machine
end

