-- ==== Sys2Proof/Certificates/Slice0/Obligations.lean ====
section
/-! DEFINITION. The statements for the provers, in the order of OBLIGATIONS.json. Each docstring names the rule of the spec
that the statement formalises, or says what it is derived from. -/

open Sys2Proof Sys2Proof.Machine

/-! ### Command words -/

/-- R81, R88: decoding the word of a well-formed command gives it back, every operand at every value its field admits. -/
def Obligations.DecodeEncodeRoundTrip : Prop :=
  ∀ i : Instr, i.WellFormed = true → decode (encode i) = .ok i

/-- R83, R85: a word decodes to a command only if it is that command's own word, so every bit of a legal word is accounted
for and no two words mean one command. -/
def Obligations.DecodeAcceptsOnlyEncodings : Prop :=
  ∀ (v : Word) (i : Instr), decode v = .ok i → i.WellFormed = true ∧ encode i = v

/-- R84, R88: words written out from the opcode map, at least one of each family, decode to the commands they stand for. -/
def Obligations.WrittenOutWordsDecode : Prop :=
  decode 0x00000000 = .ok .nop ∧ decode 0x00000001 = .ok .clear ∧ decode 0x00001010 = .ok (.keyexp .b) ∧
  decode 0x00000317 = .ok (.addrk 3) ∧ decode 0x00000919 = .ok (.eround 9) ∧ decode 0x00000A1C = .ok (.dinit 10) ∧
  decode 0x00001021 = .ok (.aesDec .b) ∧ decode 0x00000033 = .ok .hexdec ∧ decode 0x00000042 = .ok .ndEnc

/-- R86: a word with an unassigned OP, a nonzero RSV, or a nonzero field that its class does not use raises IllegalCommand,
and nothing but STATUS.ERR changes (R272). -/
def Obligations.IllegalWordsRaiseIllegalCommand : Prop :=
  ∀ (v : Word) (s : State),
    ((0x02 ≤ (opField v).toNat ∧ (opField v).toNat ≤ 0x0F) ∨ (0x1D ≤ (opField v).toNat ∧ (opField v).toNat ≤ 0x1F) ∨
      (0x26 ≤ (opField v).toNat ∧ (opField v).toNat ≤ 0x2F) ∨ (0x34 ≤ (opField v).toNat ∧ (opField v).toNat ≤ 0x3F) ∨
      0x46 ≤ (opField v).toNat ∨ reservedField v ≠ 0 ∨
      (∃ i : Instr, opField v = i.op ∧
        ((i.cls = .n ∧ (roundField v ≠ 0 ∨ keySelField v ≠ 0)) ∨ (i.cls = .r ∧ keySelField v ≠ 0) ∨
          (i.cls = .k ∧ roundField v ≠ 0)))) →
    runCommand v s = .next { s with err := .illegalCommand }

/-! ### The step -/

/-- R33, R85, R305: with no command in flight and LATENCY 0, the step that takes a 4-byte write to CMD is the meaning of
the command its value decodes to, or the raise of IllegalCommand. Around the meaning the step takes the write off the host's
actions, uses up the LATENCY entry and acknowledges the write on the bus. The host's actions, the LATENCY list and the bus
response are the model's own fields (log entries 1, 5 and 8). -/
def Obligations.StepRunsIssuedCommand : Prop :=
  ∀ (s : State) (v : Word) (rest : List HostAction),
    s.host = .access (.write 4 0 v) :: rest → ReadyAtomic s →
    (∀ i, decode v = .ok i →
      step s = exec i { s with host := rest, latency := s.latency.tail, resp := .done }) ∧
    (∀ e, decode v = .error e →
      step s = .next { s with host := rest, latency := s.latency.tail, resp := .done, err := .illegalCommand })

/-- R306: with LATENCY k + 1 the CMD write starts the command and changes no register; STATUS.BUSY (bit 6) then reads 1.
The model's choice, not a rule's words: LATENCY counts slots, and `k` of them are left after the next (log entry 1); and a
word that is no command has the window too (log entry 11), so `v` is any word. -/
def Obligations.CmdWriteWithLatencyStartsBusy : Prop :=
  ∀ (s : State) (v : Word) (rest : List HostAction) (k : Nat) (ls : List Nat),
    s.host = .access (.write 4 0 v) :: rest → s.inflight = none → s.latency = (k + 1) :: ls →
    ∃ t, step s = .next t ∧
      t = { s with host := rest, latency := ls, resp := .done, inflight := some ⟨v, k⟩ } ∧
      (readWord t 0x004).getLsbD 6 = true

/-- R280, R306, R307: while BUSY is 1, the last slot included, a legal write is dropped and sets STATUS.OVR, which still
reads 1 after the slot unless the command in flight is a CLEAR that takes effect in it; a legal read other than of STATUS
returns some value and has no effect; a read of STATUS, 4 bytes or any one of its bytes, is served, and shows BUSY = 1. The
command in flight is not disturbed. The model's choice, not a rule's words: the slots (log entry 1), OVR after the last slot
of a CLEAR (log entry 2), the counter of free values (log entry 4), the other STATUS bits read (log entry 11) and the bus response `dropped` (log entry 14). -/
def Obligations.BusyWindowKeepsHostOut : Prop :=
  ∀ (s : State) (v : Word) (left : Nat) (rest : List HostAction) (w o : Nat),
    s.inflight = some ⟨v, left⟩ → o < 0x400 → ((w = 1 ∧ 4 ≤ o) ∨ (w = 4 ∧ o % 4 = 0)) →
    (∀ x, s.host = .access (.write w o x) :: rest →
      step s = windowSlot v left { s with host := rest, ovr := true, resp := .dropped } ∧
      (decode v ≠ .ok .clear → ∃ t, step s = .next t ∧ t.ovr = true)) ∧
    (s.host = .access (.read w o) :: rest → inStatus o = false →
      ∃ x, step s = windowSlot v left { s with host := rest, free := s.free + 1, resp := .data w x }) ∧
    (s.host = .access (.read w o) :: rest → inStatus o = true →
      (w = 1 → step s = windowSlot v left { s with host := rest, resp := .data 1 ((readByte s o).setWidth 32) }) ∧
      (w = 4 → step s = windowSlot v left { s with host := rest, resp := .data 4 (readWord s 0x004) }) ∧
      (readByte s 0x007).getLsbD 6 = true ∧ (readWord s 0x004).getLsbD 6 = true)

/-- R62, R272, R275: a step never refuses and never faults, but for an access whose offset is outside the window. Derived;
that such an access is a fault is the model's choice (log entry 6). -/
def Obligations.StepStopsOnlyOutsideWindow : Prop :=
  ∀ s : State,
    (nextActionInWindow s = true → Runs (step s)) ∧
    (∀ a rest, s.host = .access a :: rest → 0x400 ≤ a.offset → step s = .fault (.outsideWindow a.offset))

/-- R307: STATUS.OVR changes in two ways only: a legal write dropped during BUSY sets it; CLEAR taking effect, at the end of
its BUSY window or at its CMD write with LATENCY 0, or reset clears it. -/
def Obligations.OverrunIsSticky : Prop :=
  ∀ s t : State, step s = .next t →
    t.ovr = s.ovr ∨
    (t.ovr = true ∧ s.busy = true ∧ ∃ w o x rest, s.host = .access (.write w o x) :: rest ∧ o < 0x400 ∧
      ((w = 1 ∧ 4 ≤ o) ∨ (w = 4 ∧ o % 4 = 0))) ∨
    (t.ovr = false ∧
      ((∃ cut rest, s.host = .reset cut :: rest) ∨
       ∃ v, decode v = .ok .clear ∧
        (s.inflight = some ⟨v, 0⟩ ∨ (ReadyAtomic s ∧ ∃ rest, s.host = .access (.write 4 0 v) :: rest))))

/-- R36, R300, R302: after reset every register holds its reset value, STATUS reads 0, no command is in flight; whatever was
running, and whether or not an access was cut. That the host's later actions, the LATENCY list and the RNG's bytes stay is
the model's choice (log entry 9). -/
def Obligations.PlatformResetPutsResetState : Prop :=
  ∀ (s : State) (cut : Option Access) (rest : List HostAction), s.host = .reset cut :: rest →
    ∃ t, step s = .next t ∧
      t.key = zeros 32 ∧ t.keylen = 0 ∧ t.twk = zeros 16 ∧ t.twklen = 0 ∧ t.blk = zeros 16 ∧ t.abuf = zeros 64 ∧
      t.alen = 0 ∧ t.dbuf = zeros 32 ∧ t.dlen = 0 ∧ t.rks = zeros 176 ∧ t.inflight = none ∧
      statusWord t = 0x00000000 ∧ t.host = rest ∧ t.latency = s.latency ∧ t.rng = s.rng

/-- R305, R306, R313: "A host that keeps the protocol can't tell a model from hardware with any LATENCY." A CMD write and the
polling of STATUS end in the same state, bus response included, for every LATENCY as for LATENCY 0. Derived; the model's
choice are the slot as the unit of LATENCY (log entry 1) and the host that polls in every slot (log entry 15). -/
def Obligations.LatencyIsInvisible : Prop :=
  ∀ (s : State) (v : Word) (n : Nat) (ls : List Nat) (rest : List HostAction), s.inflight = none →
    core.run (n + 2) { s with host := .access (.write 4 0 v) :: .wait :: rest, latency := n :: ls } =
      core.run 2 { s with host := .access (.write 4 0 v) :: .wait :: rest, latency := 0 :: ls }

/-- R23, R30, R31: STATUS.RKV = 1 means that RKS is the expansion of the key half RKSEL names, as KEY now stands; every step
keeps that true, from any state where it is. -/
def Obligations.ScheduleValidIsKeptByEveryStep : Prop :=
  ∀ s t : State, ScheduleValid s → step s = .next t → ScheduleValid t

/-- R36: the invariant holds after reset, where RKV = 0. -/
def Obligations.ScheduleValidAtReset : Prop :=
  ScheduleValid State.reset ∧ State.reset.rkv = false

/-! ### The bus -/

/-- R64, R279: an access of an illegal width or alignment, or a 1-byte access to CMD, is a bus error and changes no register
and no STATUS field, whether or not a command is in flight. That the bus error is a next state, and comes before the BUSY
test, is log entry 8. -/
def Obligations.IllegalAccessIsBusError : Prop :=
  ∀ (s : State) (a : Access), a.offset < 0x400 →
    ¬ ((a.width = 1 ∧ 4 ≤ a.offset) ∨ (a.width = 4 ∧ a.offset % 4 = 0)) →
    busAccess a s = .next { s with resp := .busError }

/-- R65: a read has no side effect at any offset. Here the step of a legal read with no command in flight; its data are
those of the window. That a 1-byte read answers in bits 7:0 is the model's choice (log entry 13). -/
def Obligations.LegalReadHasNoSideEffect : Prop :=
  ∀ (s : State) (o : Nat) (rest : List HostAction), s.inflight = none → o < 0x400 →
    (4 ≤ o → s.host = .access (.read 1 o) :: rest →
      step s = .next { s with host := rest, resp := .data 1 ((readByte s o).setWidth 32) }) ∧
    (o % 4 = 0 → s.host = .access (.read 4 o) :: rest →
      step s = .next { s with host := rest, resp := .data 4 (readWord s o) })

/-- R65, R66, R69: a one-byte host write to a stored byte is what the next read of it returns, and every other offset of the
window reads as before, STATUS too unless the byte is one of KEY; a write to any other offset changes nothing. The step of a
legal write outside CMD, with no command in flight, is that write of its one byte or of its four. That a 1-byte write has
its byte in bits 7:0 is the model's choice (log entry 13), and the acknowledgement is its own field (log entry 8). -/
def Obligations.HostWriteStoresOneByte : Prop :=
  (∀ (s : State) (o : Nat) (v : Byte),
    (hostWritable o = true →
      readByte (writeByte s o v) o = v ∧
      ∀ o', o' ≠ o → (inStatus o' = false ∨ ¬ (0x020 ≤ o ∧ o ≤ 0x03F)) →
        readByte (writeByte s o v) o' = readByte s o') ∧
    (hostWritable o = false → writeByte s o v = s)) ∧
  (∀ (s : State) (o : Nat) (v : Word) (rest : List HostAction), s.inflight = none → 4 ≤ o → o < 0x400 →
    (s.host = .access (.write 1 o v) :: rest →
      step s = .next { writeByte s o (v.extractLsb' 0 8) with host := rest, resp := .done }) ∧
    (o % 4 = 0 → s.host = .access (.write 4 o v) :: rest →
      step s = .next { writeWord s o v with host := rest, resp := .done }))

/-- R23, R65 item 2: a host write to KEY, of one byte or of an aligned word, stores its bytes and clears STATUS.RKV; every
other register and STATUS field is unchanged, RKS among them (R308). -/
def Obligations.KeyWriteClearsRkv : Prop :=
  ∀ (s : State) (i : Nat), i < 32 →
    (∀ v : Byte, writeByte s (0x020 + i) v = { s with key := s.key.setByte i v, rkv := false }) ∧
    (i % 4 = 0 → ∀ v : Word,
      writeWord s (0x020 + i) v =
        { s with
          key := (((s.key.setByte i (v.extractLsb' 24 8)).setByte (i + 1) (v.extractLsb' 16 8)).setByte (i + 2)
            (v.extractLsb' 8 8)).setByte (i + 3) (v.extractLsb' 0 8)
          rkv := false })

/-- R66: reserved offsets read as 0 and ignore writes; STATUS and RKS ignore writes; CMD reads as 0. None of these is a bus
error at a legal width and alignment: the step takes the write and only acknowledges it, or takes the read and answers with
data, 0 at a reserved offset and at CMD. -/
def Obligations.ReservedAndReadOnlyOffsets : Prop :=
  (∀ (s : State) (o : Nat), reservedOffset o = true ∨ o < 4 → readByte s o = 0) ∧
  (∀ (s : State) (o : Nat) (v : Byte), reservedOffset o = true ∨ inStatus o = true ∨ inSchedule o = true →
    writeByte s o v = s) ∧
  (∀ (s : State) (o w : Nat) (v : Word) (rest : List HostAction),
    reservedOffset o = true ∨ inStatus o = true ∨ inSchedule o = true → (w = 1 ∨ (w = 4 ∧ o % 4 = 0)) →
    s.inflight = none → s.host = .access (.write w o v) :: rest →
    step s = .next { s with host := rest, resp := .done }) ∧
  (∀ (s : State) (o w : Nat) (rest : List HostAction),
    reservedOffset o = true ∨ inStatus o = true ∨ inSchedule o = true ∨ o = 0 →
    ((w = 1 ∧ 4 ≤ o) ∨ (w = 4 ∧ o % 4 = 0)) → s.inflight = none → s.host = .access (.read w o) :: rest →
    ∃ x, step s = .next { s with host := rest, resp := .data w x } ∧ (reservedOffset o = true ∨ o = 0 → x = 0))

/-- R63: the byte at o is bits 31:24 of the word at o, and so on down; and the four consequences the rule lists. -/
def Obligations.WordViewIsBigEndian : Prop :=
  (∀ (s : State) (o k : Nat), k < 4 → (readWord s o).extractLsb' (24 - 8 * k) 8 = readByte s (o + k)) ∧
  (∀ (s : State) (o k : Nat) (v : Word), k < 4 → o % 4 = 0 → hostWritable (o + k) = true →
    readByte (writeWord s o v) (o + k) = v.extractLsb' (24 - 8 * k) 8) ∧
  (∀ s : State, readByte s 0x00B = s.keylen) ∧
  (∀ s : State, (readByte s 0x007).extractLsb' 0 4 = s.err.code ∧ (readByte s 0x007).getLsbD 4 = s.rkv ∧
    (readByte s 0x007).getLsbD 5 = decide (s.rksel = .b) ∧ (readByte s 0x007).getLsbD 6 = s.inflight.isSome ∧
    (readByte s 0x007).getLsbD 7 = s.ovr) ∧
  (∀ v : Word, wordByte v 3 = opField v) ∧
  (∀ s : State, (readWord s 0x050).toNat =
    (s.blk.byteAt 0).toNat * 2 ^ 24 + (s.blk.byteAt 1).toNat * 2 ^ 16 + (s.blk.byteAt 2).toNat * 2 ^ 8 +
      (s.blk.byteAt 3).toNat)

/-- R24, R65 item 3: a word written to a length register stores its bits 7:0 and nothing else; the word then reads back with
bits 31:8 equal to 0. -/
def Obligations.LengthRegistersKeepOneByte : Prop :=
  ∀ (s : State) (v : Word),
    writeWord s 0x008 v = { s with keylen := v.extractLsb' 0 8 } ∧
    writeWord s 0x00C v = { s with twklen := v.extractLsb' 0 8 } ∧
    writeWord s 0x010 v = { s with alen := v.extractLsb' 0 8 } ∧
    writeWord s 0x014 v = { s with dlen := v.extractLsb' 0 8 } ∧
    readWord s 0x008 = s.keylen.setWidth 32 ∧ readWord s 0x00C = s.twklen.setWidth 32 ∧
    readWord s 0x010 = s.alen.setWidth 32 ∧ readWord s 0x014 = s.dlen.setWidth 32

/-! ### Field, tables, key schedule and round transforms -/

/-- R141: gmul is commutative and associative, distributes over XOR, and has identity 0x01 and zero 0x00. -/
def Obligations.GmulFieldLaws : Prop :=
  (∀ a b : Byte, gmul a b = gmul b a) ∧
  (∀ a b c : Byte, gmul (gmul a b) c = gmul a (gmul b c)) ∧
  (∀ a b c : Byte, gmul a (b ^^^ c) = gmul a b ^^^ gmul a c) ∧
  (∀ a : Byte, gmul a 0x01 = a ∧ gmul a 0x00 = 0x00)

/-- R143, R144: each S-box entry is the affine map of the field inverse of its index (0 for index 0); and the two tables are
inverse permutations. -/
def Obligations.SboxIsAffineMapOfInverse : Prop :=
  (∀ x : Byte, ∃ y : Byte, ((x = 0 ∧ y = 0) ∨ gmul x y = 1) ∧
    sbox x = y ^^^ y.rotateLeft 1 ^^^ y.rotateLeft 2 ^^^ y.rotateLeft 3 ^^^ y.rotateLeft 4 ^^^ 0x63) ∧
  (∀ x : Byte, invSbox (sbox x) = x ∧ sbox (invSbox x) = x)

/-- R145: RCON[1] = 0x01 and RCON[j+1] = xtime(RCON[j]), the ten values of the table. -/
def Obligations.RoundConstantRecurrence : Prop :=
  rcon 1 = 0x01 ∧ (∀ j, 1 ≤ j → j ≤ 9 → rcon (j + 1) = xtime (rcon j)) ∧
  (List.range 10).map (fun j => rcon (j + 1)) = [0x01, 0x02, 0x04, 0x08, 0x10, 0x20, 0x40, 0x80, 0x1b, 0x36]

/-- R147: the recurrence of the 44 words, byte by byte, with word i at bytes 4i..4i+3 of the schedule; RK[0] is the key, and
RK[r] is bytes 16r..16r+15. -/
def Obligations.KeyExpansionRecurrence : Prop :=
  ∀ k : Block,
    (∀ j, j < 16 → (keyExpand k).byteAt j = k.byteAt j) ∧
    (∀ i j, 4 ≤ i → i ≤ 43 → j < 4 →
      (keyExpand k).byteAt (4 * i + j) =
        (keyExpand k).byteAt (4 * (i - 4) + j) ^^^
          (if i % 4 = 0 then
            sbox ((keyExpand k).byteAt (4 * (i - 1) + (j + 1) % 4)) ^^^ (if j = 0 then rcon (i / 4) else 0)
          else (keyExpand k).byteAt (4 * (i - 1) + j))) ∧
    (∀ r j, r ≤ 10 → j < 16 → (roundKeyOf (keyExpand k) r).byteAt j = (keyExpand k).byteAt (16 * r + j))

/-- R172, R173: the element formulas, and the byte permutations written out. -/
def Obligations.ShiftRowsMovesRows : Prop :=
  ∀ s : Block,
    (∀ r c, r < 4 → c < 4 → (shiftRows s).byteAt (r + 4 * c) = s.byteAt (r + 4 * ((c + r) % 4))) ∧
    (∀ r c, r < 4 → c < 4 → (invShiftRows s).byteAt (r + 4 * c) = s.byteAt (r + 4 * ((c + 4 - r) % 4))) ∧
    (shiftRows s).bytes = [0, 5, 10, 15, 4, 9, 14, 3, 8, 13, 2, 7, 12, 1, 6, 11].map (fun i => s.byteAt i) ∧
    (invShiftRows s).bytes = [0, 13, 10, 7, 4, 1, 14, 11, 8, 5, 2, 15, 12, 9, 6, 3].map (fun i => s.byteAt i)

/-- R175, R176: MixColumns and InvMixColumns of each column, written out. -/
def Obligations.MixColumnsWrittenOut : Prop :=
  ∀ (s : Block) (c : Nat) (a0 a1 a2 a3 : Byte), c < 4 →
    s.byteAt (4 * c) = a0 → s.byteAt (1 + 4 * c) = a1 → s.byteAt (2 + 4 * c) = a2 → s.byteAt (3 + 4 * c) = a3 →
    (mixColumns s).byteAt (4 * c) = gmul 0x02 a0 ^^^ gmul 0x03 a1 ^^^ a2 ^^^ a3 ∧
    (mixColumns s).byteAt (1 + 4 * c) = a0 ^^^ gmul 0x02 a1 ^^^ gmul 0x03 a2 ^^^ a3 ∧
    (mixColumns s).byteAt (2 + 4 * c) = a0 ^^^ a1 ^^^ gmul 0x02 a2 ^^^ gmul 0x03 a3 ∧
    (mixColumns s).byteAt (3 + 4 * c) = gmul 0x03 a0 ^^^ a1 ^^^ a2 ^^^ gmul 0x02 a3 ∧
    (invMixColumns s).byteAt (4 * c) = gmul 0x0e a0 ^^^ gmul 0x0b a1 ^^^ gmul 0x0d a2 ^^^ gmul 0x09 a3 ∧
    (invMixColumns s).byteAt (1 + 4 * c) = gmul 0x09 a0 ^^^ gmul 0x0e a1 ^^^ gmul 0x0b a2 ^^^ gmul 0x0d a3 ∧
    (invMixColumns s).byteAt (2 + 4 * c) = gmul 0x0d a0 ^^^ gmul 0x09 a1 ^^^ gmul 0x0e a2 ^^^ gmul 0x0b a3 ∧
    (invMixColumns s).byteAt (3 + 4 * c) = gmul 0x0b a0 ^^^ gmul 0x0d a1 ^^^ gmul 0x09 a2 ^^^ gmul 0x0e a3

/-- R178: the four inverse laws, and the two that commute. -/
def Obligations.RoundTransformInverseLaws : Prop :=
  ∀ s k : Block,
    invSubBytes (subBytes s) = s ∧ invShiftRows (shiftRows s) = s ∧ invMixColumns (mixColumns s) = s ∧
    addRoundKey (addRoundKey s k) k = s ∧
    subBytes (shiftRows s) = shiftRows (subBytes s) ∧ invSubBytes (invShiftRows s) = invShiftRows (invSubBytes s)

/-- R200: Pad8(t) for i in 0..3. -/
def Obligations.PaddedTweakLayout : Prop :=
  ∀ (t : Bytes 8) (i : Nat), i < 4 →
    (pad8 t).byteAt (4 * i) = t.byteAt (2 * i) ∧ (pad8 t).byteAt (4 * i + 1) = t.byteAt (2 * i + 1) ∧
    (pad8 t).byteAt (4 * i + 2) = 0 ∧ (pad8 t).byteAt (4 * i + 3) = 0

/-- R203: Decrypt inverts Encrypt for every key, block and round tweak; and, R211, Encrypt inverts Decrypt. -/
def Obligations.DecryptInvertsEncrypt : Prop :=
  ∀ k p t : Block, decrypt k (encrypt k p t) t = p ∧ encrypt k (decrypt k p t) t = p

/-- R211: the three command sequences of R90 leave the same BLK as the single commands, and RKS, RKV and RKSEL as KEYEXP A
does; the single commands leave these as they were; Encrypt is a permutation of the blocks; KIASU_ENC with a zero tweak is
AES_ENC. -/
def Obligations.PrimitiveSequencesEqualBlockCommands : Prop :=
  (∀ s : State,
    execAll aes128E s = .next { s with
      blk := encrypt s.keyA s.blk (zeros 16), rks := keyExpand s.keyA, rkv := true, rksel := .a, err := .ok } ∧
    execAll aes128D s = .next { s with
      blk := decrypt s.keyA s.blk (zeros 16), rks := keyExpand s.keyA, rkv := true, rksel := .a, err := .ok } ∧
    execAll kiasu128E s = .next { s with
      blk := encrypt s.keyA s.blk (pad8 s.twk8), rks := keyExpand s.keyA, rkv := true, rksel := .a, err := .ok } ∧
    exec (.aesEnc .a) s = .next { s with blk := encrypt s.keyA s.blk (zeros 16), err := .ok } ∧
    exec (.aesDec .a) s = .next { s with blk := decrypt s.keyA s.blk (zeros 16), err := .ok } ∧
    exec (.kiasuEnc .a) s = .next { s with blk := encrypt s.keyA s.blk (pad8 s.twk8), err := .ok }) ∧
  (∀ k t : Block, Function.Bijective fun p => encrypt k p t) ∧
  (∀ (s : State) (k : KeySel), s.twk8 = zeros 8 → exec (.kiasuEnc k) s = exec (.aesEnc k) s)

/-- R205, R207, R210: each decrypt command after its encrypt command, with the keys and tweak unchanged, restores BLK. -/
def Obligations.BlockDecryptRestoresBlock : Prop :=
  ∀ (s : State) (k : KeySel),
    andThen (exec (.aesEnc k) s) (exec (.aesDec k)) = .next { s with err := .ok } ∧
    andThen (exec (.kiasuEnc k) s) (exec (.kiasuDec k)) = .next { s with err := .ok } ∧
    andThen (exec .xexEnc s) (exec .xexDec) = .next { s with err := .ok }

/-! ### The address codec -/

/-- R113: the three codec laws. -/
def Obligations.CodecLaws : Prop :=
  (∀ b : Block, Sys2Proof.parse (Sys2Proof.format b) = some b) ∧
  (∀ (t : Text) (b : Block), Sys2Proof.parse t = some b →
    ∃ c, Sys2Proof.parse (Sys2Proof.format b) = some c ∧ Sys2Proof.format c = Sys2Proof.format b) ∧
  (∃ b : Block, Sys2Proof.parse (ascii "1.2.3.4") = some b ∧ Sys2Proof.parse (ascii "::ffff:102:304") = some b ∧
    Sys2Proof.parse (ascii "::FFFF:0102:0304") = some b ∧ Sys2Proof.parse (ascii "[::ffff:102:304]") = some b)

/-- R76, R100, R105, R106: the text FORMAT writes has 2 to 39 characters, all of them digits, a to f, '.' or ':', and it is
dotted exactly when the block's first 12 bytes are the IPv4-mapped prefix. -/
def Obligations.FormatOutputShape : Prop :=
  ∀ b : Block,
    2 ≤ (Sys2Proof.format b).length ∧ (Sys2Proof.format b).length ≤ 39 ∧
    (∀ c ∈ Sys2Proof.format b, isOutputChar c = true) ∧
    (chDot ∈ Sys2Proof.format b ↔
      (∀ i, i < 10 → b.byteAt i = 0) ∧ b.byteAt 10 = 0xff ∧ b.byteAt 11 = 0xff)

/-- R76, R101: a text that the parser accepts has 1 to 64 characters, all of them among those R76 lists. -/
def Obligations.ParserAcceptsOnlyAddressCharacters : Prop :=
  ∀ (t : Text) (b : Block), Sys2Proof.parse t = some b →
    1 ≤ t.length ∧ t.length ≤ 64 ∧ ∀ c ∈ t, isAddressChar c = true

/-- R107, R108, R111, R112: HEXENC and then HEXDEC give back DBUF's input part, zero-filled, and DLEN. -/
def Obligations.HexdecUndoesHexenc : Prop :=
  ∀ s : State, s.dlen.toNat ≤ 32 →
    ∃ t u, exec .hexenc s = .next t ∧ exec .hexdec t = .next u ∧
      u.dlen = s.dlen ∧ u.dbuf = Bytes.fill 32 s.data ∧ u.err = .ok

/-! ### What each command does -/

/-- R260: NOP changes nothing but STATUS.ERR, which becomes OK; the word of NOP is 0, and any other word with OP = 0x00
raises IllegalCommand. -/
def Obligations.NopWritesErrOnly : Prop :=
  ∀ s : State, exec .nop s = .next { s with err := .ok } ∧ runCommand 0x00000000 s = exec .nop s ∧
    ∀ v : Word, opField v = 0x00 → v ≠ 0 → runCommand v s = .next { s with err := .illegalCommand }

/-- R36, R261: CLEAR (word 0x00000001) puts every register at its reset value and STATUS at 0x00000000. That what the host and
the platform still hold stays is the model's choice (log entries 5 and 9). -/
def Obligations.ClearGivesResetValues : Prop :=
  decode 0x00000001 = .ok .clear ∧
  ∀ s : State, ∃ t, exec .clear s = .next t ∧
    t.key = zeros 32 ∧ t.keylen = 0 ∧ t.twk = zeros 16 ∧ t.twklen = 0 ∧ t.blk = zeros 16 ∧ t.abuf = zeros 64 ∧
    t.alen = 0 ∧ t.dbuf = zeros 32 ∧ t.dlen = 0 ∧ t.rks = zeros 176 ∧ statusWord t = 0x00000000 ∧
    t.host = s.host ∧ t.latency = s.latency ∧ t.rng = s.rng ∧ t.free = s.free ∧ t.resp = s.resp

/-- R148: KEYEXP expands the selected half, KEYA = KEY[0..16) or KEYB = KEY[16..32), into RKS, sets RKV and copies KSEL. -/
def Obligations.KeyexpWritesSchedule : Prop :=
  decode 0x00000010 = .ok (.keyexp .a) ∧ decode 0x00001010 = .ok (.keyexp .b) ∧
  ∀ s : State,
    exec (.keyexp .a) s = .next { s with
      rks := keyExpand (s.key.slice 0 16), rkv := true, rksel := .a, err := .ok } ∧
    exec (.keyexp .b) s = .next { s with
      rks := keyExpand (s.key.slice 16 16), rkv := true, rksel := .b, err := .ok }

/-- R180 to R185: the words and effects of the six transforms of BLK; nothing but BLK and STATUS.ERR changes. R170, R171:
SubBytes and InvSubBytes lane by lane. The lanes of the other four are the statements ShiftRowsMovesRows and
MixColumnsWrittenOut. -/
def Obligations.BlockTransformsWriteBlk : Prop :=
  decode 0x00000011 = .ok .subb ∧ decode 0x00000012 = .ok .isubb ∧ decode 0x00000013 = .ok .shr ∧
  decode 0x00000014 = .ok .ishr ∧ decode 0x00000015 = .ok .mixc ∧ decode 0x00000016 = .ok .imixc ∧
  (∀ (b : Block) (i : Nat), i < 16 →
    (subBytes b).byteAt i = sbox (b.byteAt i) ∧ (invSubBytes b).byteAt i = invSbox (b.byteAt i)) ∧
  ∀ s : State,
    exec .subb s = .next { s with blk := subBytes s.blk, err := .ok } ∧
    exec .isubb s = .next { s with blk := invSubBytes s.blk, err := .ok } ∧
    exec .shr s = .next { s with blk := shiftRows s.blk, err := .ok } ∧
    exec .ishr s = .next { s with blk := invShiftRows s.blk, err := .ok } ∧
    exec .mixc s = .next { s with blk := mixColumns s.blk, err := .ok } ∧
    exec .imixc s = .next { s with blk := invMixColumns s.blk, err := .ok }

/-- R186 to R191: with R in 0..10 and RKV = 1, the effects of the six commands that use RK[R] = RKS[16R..16R+16); nothing
but BLK and STATUS.ERR changes. -/
def Obligations.RoundKeyCommandsWriteBlk : Prop :=
  ∀ (s : State) (r : Nat), r ≤ 10 → s.rkv = true →
    exec (.addrk r) s = .next { s with blk := s.blk.xor (s.rks.slice (16 * r) 16), err := .ok } ∧
    exec (.addrkt r) s = .next { s with
      blk := s.blk.xor ((s.rks.slice (16 * r) 16).xor (pad8 (s.twk.slice 0 8))), err := .ok } ∧
    exec (.eround r) s = .next { s with
      blk := (mixColumns (shiftRows (subBytes s.blk))).xor (s.rks.slice (16 * r) 16), err := .ok } ∧
    exec (.efinal r) s = .next { s with
      blk := (shiftRows (subBytes s.blk)).xor (s.rks.slice (16 * r) 16), err := .ok } ∧
    exec (.dround r) s = .next { s with
      blk := invSubBytes (invShiftRows (invMixColumns (s.blk.xor (s.rks.slice (16 * r) 16)))), err := .ok } ∧
    exec (.dinit r) s = .next { s with
      blk := invSubBytes (invShiftRows (s.blk.xor (s.rks.slice (16 * r) 16))), err := .ok }

/-- R87, R179, R272: a class R word passes decode with every R in 0..15; R in 11..15 then raises BadOperand, whatever RKV
is; R in 0..10 with RKV = 0 raises NoSchedule; both change nothing but STATUS.ERR. -/
def Obligations.RoundKeyCheckOrder : Prop :=
  ∀ (s : State) (r : Nat) (i : Instr), r ≤ 15 →
    i ∈ [.addrk r, .addrkt r, .eround r, .efinal r, .dround r, .dinit r] →
    decode (encode i) = .ok i ∧
    (10 < r → exec i s = .next { s with err := .badOperand }) ∧
    (r ≤ 10 → s.rkv = false → exec i s = .next { s with err := .noSchedule })

/-- R204 to R207, R209, R210: the effects of the six block commands on BLK, with KEYA = KEY[0..16) and KEYB = KEY[16..32);
nothing but BLK and STATUS.ERR changes. R208: XEX written out, its mask by the forward cipher under K2 in both directions. -/
def Obligations.BlockCommandsWriteBlk : Prop :=
  (∀ (s : State) (k : KeySel) (kk : Block),
    kk = (match k with | .a => s.key.slice 0 16 | .b => s.key.slice 16 16) →
    exec (.aesEnc k) s = .next { s with blk := encrypt kk s.blk (zeros 16), err := .ok } ∧
    exec (.aesDec k) s = .next { s with blk := decrypt kk s.blk (zeros 16), err := .ok } ∧
    exec (.kiasuEnc k) s = .next { s with blk := encrypt kk s.blk (pad8 (s.twk.slice 0 8)), err := .ok } ∧
    exec (.kiasuDec k) s = .next { s with blk := decrypt kk s.blk (pad8 (s.twk.slice 0 8)), err := .ok } ∧
    exec .xexEnc s = .next { s with
      blk := xexEncrypt (s.key.slice 0 16) (s.key.slice 16 16) s.twk s.blk, err := .ok } ∧
    exec .xexDec s = .next { s with
      blk := xexDecrypt (s.key.slice 0 16) (s.key.slice 16 16) s.twk s.blk, err := .ok }) ∧
  (∀ k1 k2 tw p e : Block, e = encrypt k2 tw (zeros 16) →
    xexEncrypt k1 k2 tw p = (encrypt k1 (p.xor e) (zeros 16)).xor e ∧
    xexDecrypt k1 k2 tw p = (decrypt k1 (p.xor e) (zeros 16)).xor e)

/-- R109: PARSE (word 0x00000030) writes the block that ABUF[0..ALEN) parses to; an ALEN over 64, or a text that does not
parse, raises InvalidAddress. What parses is written out by the statement ParseWrittenOut. -/
def Obligations.ParseWritesBlk : Prop :=
  decode 0x00000030 = .ok .parse ∧
  ∀ s : State,
    (∀ b, s.alen.toNat ≤ 64 → Sys2Proof.parse (s.abuf.bytes.take s.alen.toNat) = some b →
      exec .parse s = .next { s with blk := b, err := .ok }) ∧
    (s.alen.toNat > 64 ∨ Sys2Proof.parse (s.abuf.bytes.take s.alen.toNat) = none →
      exec .parse s = .next { s with err := .invalidAddress })

/-- R110: FORMAT (word 0x00000031) writes the canonical text of BLK to ABUF, zeros after it, and its length to ALEN. The text
itself is written out by the statement FormatWrittenOut. -/
def Obligations.FormatWritesText : Prop :=
  decode 0x00000031 = .ok .format ∧
  ∀ s : State, ∃ t, exec .format s = .next t ∧
    t.abuf.bytes.take t.alen.toNat = Sys2Proof.format s.blk ∧
    t.alen.toNat = (Sys2Proof.format s.blk).length ∧
    (∀ i, t.alen.toNat ≤ i → t.abuf.byteAt i = 0) ∧
    t = { s with abuf := t.abuf, alen := t.alen, err := .ok }

/-- R111, R112: the effects of HEXENC and HEXDEC, and their errors, the length before the characters. R107, R108: Hex and
Unhex written out, the high nibble first, with the characters and the digits' values by their ASCII codes. -/
def Obligations.HexCommandResults : Prop :=
  decode 0x00000032 = .ok .hexenc ∧ decode 0x00000033 = .ok .hexdec ∧
  (∀ d : List Byte, (hex d).length = 2 * d.length ∧ ∀ i x, d[i]? = some x →
    (hex d)[2 * i]? = hexCharacters[x.toNat / 16]? ∧ (hex d)[2 * i + 1]? = hexCharacters[x.toNat % 16]?) ∧
  (∀ t : Text, t.length % 2 = 0 →
    (∀ e, unhex t = some e ↔ t.length = 2 * e.length ∧ ∀ i x, e[i]? = some x →
      ∃ c d h l, t[2 * i]? = some c ∧ t[2 * i + 1]? = some d ∧ HexDigitIs c h ∧ HexDigitIs d l ∧ x.toNat = 16 * h + l) ∧
    ((∃ c ∈ t, ∀ x, ¬ HexDigitIs c x) → unhex t = none)) ∧
  ∀ s : State,
    (s.dlen.toNat ≤ 32 → exec .hexenc s = .next { s with
      abuf := Bytes.fill 64 (hex (s.dbuf.bytes.take s.dlen.toNat)), alen := BitVec.ofNat 8 (2 * s.dlen.toNat), err := .ok }) ∧
    (s.dlen.toNat > 32 → exec .hexenc s = .next { s with err := .invalidEncodedLength }) ∧
    (∀ e, s.alen.toNat ≤ 64 → s.alen.toNat % 2 = 0 → unhex (s.abuf.bytes.take s.alen.toNat) = some e →
      exec .hexdec s = .next { s with
        dbuf := Bytes.fill 32 e, dlen := BitVec.ofNat 8 (s.alen.toNat / 2), err := .ok }) ∧
    (s.alen.toNat > 64 ∨ s.alen.toNat % 2 = 1 → exec .hexdec s = .next { s with err := .invalidEncodedLength }) ∧
    (s.alen.toNat ≤ 64 → s.alen.toNat % 2 = 0 → unhex (s.abuf.bytes.take s.alen.toNat) = none →
      exec .hexdec s = .next { s with err := .invalidHex })

/-- R223, R224: with KEYLEN = 16 and an address in ABUF, the effects of DET_ENC and DET_DEC, whatever TWKLEN is. -/
def Obligations.DeterministicModeResults : Prop :=
  ∀ (s : State) (b c p : Block), s.keylen = 16 → s.alen.toNat ≤ 64 →
    Sys2Proof.parse (s.abuf.bytes.take s.alen.toNat) = some b →
    c = encrypt (s.key.slice 0 16) b (zeros 16) → p = decrypt (s.key.slice 0 16) b (zeros 16) →
    exec .detEnc s = .next { s with
      blk := c, abuf := Bytes.fill 64 (Sys2Proof.format c), alen := BitVec.ofNat 8 (Sys2Proof.format c).length,
      err := .ok } ∧
    exec .detDec s = .next { s with
      blk := p, abuf := Bytes.fill 64 (Sys2Proof.format p), alen := BitVec.ofNat 8 (Sys2Proof.format p).length,
      err := .ok }

/-- R226, R234: with a valid KEYLEN and TWKLEN and an address in ABUF, the effects of ND_ENC and NDX_ENC: `t ‖ c` to DBUF, its
hex form to ABUF, the lengths 24 and 48, or 32 and 64. The tweak is the host's when TWKLEN is the mode's tweak length, else
the bytes of one draw; TWK is not written. Where a draw's bytes come from is the model's choice (log entry 3). -/
def Obligations.TweakedEncryptResults : Prop :=
  ∀ (s : State) (p : Block), s.alen.toNat ≤ 64 → Sys2Proof.parse (s.abuf.bytes.take s.alen.toNat) = some p →
    (∀ (t : Bytes 8) (c : Block), s.keylen = 16 → c = encrypt (s.key.slice 0 16) p (pad8 t) →
      (s.twklen = 8 → t = s.twk.slice 0 8 → exec .ndEnc s = .next { s with
        blk := c, dbuf := Bytes.fill 32 (t.bytes ++ c.bytes), dlen := 24,
        abuf := Bytes.fill 64 (hex (t.bytes ++ c.bytes)), alen := 48, err := .ok }) ∧
      (s.twklen = 0 → t.bytes = drawBytes s 8 → exec .ndEnc s = .next { s.afterDraw 8 with
        blk := c, dbuf := Bytes.fill 32 (t.bytes ++ c.bytes), dlen := 24,
        abuf := Bytes.fill 64 (hex (t.bytes ++ c.bytes)), alen := 48, err := .ok })) ∧
    (∀ (t c : Block), s.keylen = 32 → c = xexEncrypt (s.key.slice 0 16) (s.key.slice 16 16) t p →
      (s.twklen = 16 → t = s.twk → exec .ndxEnc s = .next { s with
        blk := c, dbuf := Bytes.fill 32 (t.bytes ++ c.bytes), dlen := 32,
        abuf := Bytes.fill 64 (hex (t.bytes ++ c.bytes)), alen := 64, err := .ok }) ∧
      (s.twklen = 0 → t.bytes = drawBytes s 16 → exec .ndxEnc s = .next { s.afterDraw 16 with
        blk := c, dbuf := Bytes.fill 32 (t.bytes ++ c.bytes), dlen := 32,
        abuf := Bytes.fill 64 (hex (t.bytes ++ c.bytes)), alen := 64, err := .ok }))

/-- R227, R228, R235: with valid lengths and no supplied tweak, or one equal to the stored tweak, the effects of ND_DEC and
NDX_DEC: the block to BLK, its text to ABUF and ALEN; DBUF, DLEN and TWK are not written. -/
def Obligations.TweakedDecryptResults : Prop :=
  ∀ (s : State) (p : Block),
    (s.keylen = 16 → s.dlen = 24 → (s.twklen = 0 ∨ (s.twklen = 8 ∧ s.twk.slice 0 8 = s.dbuf.slice 0 8)) →
      p = decrypt (s.key.slice 0 16) (s.dbuf.slice 8 16) (pad8 (s.dbuf.slice 0 8)) →
      exec .ndDec s = .next { s with
        blk := p, abuf := Bytes.fill 64 (Sys2Proof.format p), alen := BitVec.ofNat 8 (Sys2Proof.format p).length,
        err := .ok }) ∧
    (s.keylen = 32 → s.dlen = 32 → (s.twklen = 0 ∨ (s.twklen = 16 ∧ s.twk = s.dbuf.slice 0 16)) →
      p = xexDecrypt (s.key.slice 0 16) (s.key.slice 16 16) (s.dbuf.slice 0 16) (s.dbuf.slice 16 16) →
      exec .ndxDec s = .next { s with
        blk := p, abuf := Bytes.fill 64 (Sys2Proof.format p), alen := BitVec.ofNat 8 (Sys2Proof.format p).length,
        err := .ok })

/-- R221, R228: the order in which a mode command's checks fail. Each failure changes nothing but STATUS.ERR, so a failing
command never draws. -/
def Obligations.ModeValidationOrder : Prop :=
  ∀ s : State,
    (s.keylen ≠ 16 → ∀ i ∈ [Instr.detEnc, .detDec, .ndEnc, .ndDec], exec i s = .next { s with err := .invalidKey }) ∧
    (s.keylen ≠ 32 → ∀ i ∈ [Instr.ndxEnc, .ndxDec], exec i s = .next { s with err := .invalidKey }) ∧
    (s.keylen = 16 → s.twklen ≠ 0 → s.twklen ≠ 8 → ∀ i ∈ [Instr.ndEnc, .ndDec],
      exec i s = .next { s with err := .invalidTweak }) ∧
    (s.keylen = 32 → s.twklen ≠ 0 → s.twklen ≠ 16 → ∀ i ∈ [Instr.ndxEnc, .ndxDec],
      exec i s = .next { s with err := .invalidTweak }) ∧
    (s.alen.toNat > 64 ∨ Sys2Proof.parse (s.abuf.bytes.take s.alen.toNat) = none →
      (s.keylen = 16 → exec .detEnc s = .next { s with err := .invalidAddress } ∧
        exec .detDec s = .next { s with err := .invalidAddress }) ∧
      (s.keylen = 16 → s.twklen = 0 ∨ s.twklen = 8 → exec .ndEnc s = .next { s with err := .invalidAddress }) ∧
      (s.keylen = 32 → s.twklen = 0 ∨ s.twklen = 16 → exec .ndxEnc s = .next { s with err := .invalidAddress })) ∧
    (s.keylen = 16 → s.twklen = 0 ∨ s.twklen = 8 → s.dlen ≠ 24 →
      exec .ndDec s = .next { s with err := .invalidEncodedLength }) ∧
    (s.keylen = 32 → s.twklen = 0 ∨ s.twklen = 16 → s.dlen ≠ 32 →
      exec .ndxDec s = .next { s with err := .invalidEncodedLength }) ∧
    (s.keylen = 16 → s.twklen = 8 → s.dlen = 24 → s.twk.slice 0 8 ≠ s.dbuf.slice 0 8 →
      exec .ndDec s = .next { s with err := .tweakMismatch }) ∧
    (s.keylen = 32 → s.twklen = 16 → s.dlen = 32 → s.twk ≠ s.dbuf.slice 0 16 →
      exec .ndxDec s = .next { s with err := .tweakMismatch })

/-- R74: a draw gives exactly n bytes, every byte string of length n is possible, and the port always answers. The model's
choice: the bytes come from the list of the port's next answers, and the bytes that list does not supply are free values,
each used once (log entry 3). -/
def Obligations.DrawIsUnconstrained : Prop :=
  (∀ (s : State) (n : Nat), (drawBytes s n).length = n) ∧
  (∀ (s : State) (d rest : List Byte),
    drawBytes { s with rng := d ++ rest } d.length = d ∧
    (State.afterDraw { s with rng := d ++ rest } d.length).rng = rest ∧
    (State.afterDraw { s with rng := d ++ rest } d.length).free = s.free) ∧
  (∀ (s : State) (n : Nat), s.rng.length ≤ n →
    (∀ i, i < s.rng.length → (drawBytes s n)[i]? = s.rng[i]?) ∧
    (∀ j, s.rng.length + j < n → (drawBytes s n)[s.rng.length + j]? = some (Config.rngByte (s.free + j))) ∧
    (s.afterDraw n).rng = [] ∧ (s.afterDraw n).free = s.free + (n - s.rng.length))

/-! ### What no command does -/

/-- R272: a command that leaves an error changes nothing but STATUS.ERR; and ERR is not sticky: no command depends on the
one before. -/
def Obligations.FailedCommandChangesOnlyErr : Prop :=
  (∀ (i : Instr) (s t : State), exec i s = .next t → t.err ≠ .ok → t = { s with err := t.err }) ∧
  (∀ (i : Instr) (s : State) (e : Err), exec i { s with err := e } = exec i s)

/-- R271: the error codes each command can write, besides OK. -/
def Obligations.ErrorCausesPerCommand : Prop :=
  ∀ (i : Instr) (s t : State), exec i s = .next t → t.err = .ok ∨ t.err ∈ errorsOf i

/-- R34: the frame of every command. Every window offset outside the registers the command has a "w" for, and outside STATUS,
reads as before; the host's and the platform's data, the model's own fields (log entry 5), stay, and only ND_ENC and NDX_ENC
draw. -/
def Obligations.CommandFrame : Prop :=
  ∀ (i : Instr) (s t : State), exec i s = .next t →
    (∀ o, o < 0x400 → mayWrite i o = false → inStatus o = false → readByte t o = readByte s o) ∧
    t.host = s.host ∧ t.latency = s.latency ∧ t.resp = s.resp ∧
    (i ≠ .ndEnc → i ≠ .ndxEnc → t.rng = s.rng ∧ t.free = s.free)

/-- R23 to R26, R30, R31, R307: no command but CLEAR writes KEY, KEYLEN, TWK, TWKLEN or STATUS.OVR; none but KEYEXP and CLEAR
writes RKS, STATUS.RKV or STATUS.RKSEL. -/
def Obligations.OnlyClearAndKeyexpWriteKeyState : Prop :=
  ∀ (i : Instr) (s t : State), exec i s = .next t → i ≠ .clear →
    (t.key = s.key ∧ t.keylen = s.keylen ∧ t.twk = s.twk ∧ t.twklen = s.twklen ∧ t.ovr = s.ovr ∧
      t.inflight = s.inflight) ∧
    ((∀ k, i ≠ .keyexp k) → t.rks = s.rks ∧ t.rkv = s.rkv ∧ t.rksel = s.rksel)

/-- R201, R237: no mode command and no block command depends on RKS, RKV or RKSEL: run on two states that differ only there,
it does the same and ends the same. None of them raises BadOperand or NoSchedule. -/
def Obligations.ModesAndBlockCommandsIgnoreSchedule : Prop :=
  ∀ (i : Instr) (s : State) (rk : Bytes 176) (v : Bool) (k : KeySel), isMode i = true ∨ isBlockCommand i = true →
    exec i (s.withSchedule rk v k) = mapNext (fun t => t.withSchedule rk v k) (exec i s) ∧
    ∀ t, exec i s = .next t → t.err ≠ .badOperand ∧ t.err ≠ .noSchedule

/-! ### The modes -/

/-- R236 item 1, deterministic mode: DET_ENC and then DET_DEC with the same KEYA give the canonical spelling of the address. -/
def Obligations.DeterministicRoundTrip : Prop :=
  ∀ (s : State) (p : Block), s.keylen = 16 → s.alen.toNat ≤ 64 → Sys2Proof.parse s.text = some p →
    ∃ t u, exec .detEnc s = .next t ∧ exec .detDec t = .next u ∧
      u.err = .ok ∧ u.blk = p ∧ u.text = Sys2Proof.format p

/-- R236 item 1, ND and NDX modes: encrypt and then decrypt, with DBUF and DLEN carried over and TWKLEN the same or 0, give the
canonical spelling of the address; for every tweak, supplied or drawn. -/
def Obligations.TweakedModesRoundTrip : Prop :=
  ∀ (s : State) (p : Block), s.alen.toNat ≤ 64 → Sys2Proof.parse s.text = some p →
    (s.keylen = 16 → s.twklen = 0 ∨ s.twklen = 8 →
      ∃ t, exec .ndEnc s = .next t ∧ ∀ t', (t' = t ∨ t' = { t with twklen := 0 }) →
        ∃ u, exec .ndDec t' = .next u ∧ u.err = .ok ∧ u.blk = p ∧ u.text = Sys2Proof.format p) ∧
    (s.keylen = 32 → s.twklen = 0 ∨ s.twklen = 16 →
      ∃ t, exec .ndxEnc s = .next t ∧ ∀ t', (t' = t ∨ t' = { t with twklen := 0 }) →
        ∃ u, exec .ndxDec t' = .next u ∧ u.err = .ok ∧ u.blk = p ∧ u.text = Sys2Proof.format p)

/-- R229: after a successful ND_ENC, ALEN = 48, DLEN = 24, and ABUF's text has only characters of `0123456789abcdef`, the
sixteen ASCII codes of `hexCharacters`; ND_DEC accepts DLEN = 24 only; HEXDEC on ND_ENC's ABUF gives back DBUF and DLEN. -/
def Obligations.NdEncodedLengths : Prop :=
  (∀ s t : State, exec .ndEnc s = .next t → t.err = .ok →
    t.alen = 48 ∧ t.dlen = 24 ∧ (∀ c ∈ t.text, c ∈ hexCharacters) ∧
    ∃ u, exec .hexdec t = .next u ∧ u.err = .ok ∧ u.dbuf = t.dbuf ∧ u.dlen = t.dlen) ∧
  (∀ s t : State, exec .ndDec s = .next t → t.err = .ok → s.dlen = 24)

/-! ### The codec's texts written out -/

/-- R105, R106: the text of every block. An IPv4-mapped block has its four decimal numbers with dots. Any other block has its
groups in lowercase hex with colons; the longest run of zero groups, the leftmost of several, is `::` if it has two or more. -/
def Obligations.FormatWrittenOut : Prop :=
  ∀ b : Block,
    (HasMappedPrefix b → Sys2Proof.format b = dottedText b) ∧
    (¬ HasMappedPrefix b →
      (∀ s len, 2 ≤ len → ZeroRun b s len →
        (∀ s' len', ZeroRun b s' len' → len' < len ∨ (len' = len ∧ s ≤ s')) →
        Sys2Proof.format b = groupsText b 0 s ++ [0x3A, 0x3A] ++ groupsText b (s + len) 8) ∧
      ((∀ s, ¬ ZeroRun b s 2) → Sys2Proof.format b = groupsText b 0 8))

/-- R102 to R104: the texts that parse, and the block of each. They are the four decimal numbers 0 to 255 with dots and no
leading zeros; IPv6 text of eight groups of 1 to 4 hex digits, or of at most seven and one `::`; and IPv6 text in brackets. -/
def Obligations.ParseWrittenOut : Prop :=
  ∀ (t : Text) (b : Block),
    Sys2Proof.parse t = some b ↔
      IsV4Text t b ∨ IsV6Text t b ∨ ∃ u, t = [0x5B] ++ u ++ [0x5D] ∧ IsV6Text u b
end

