-- ==== Sys2Proof/Laws/Bytes.lean ====
section
/-! SUPPORT. What each operation on byte strings gives, byte by byte, and when two byte strings are equal. -/

namespace Sys2Proof

theorem Bytes.byteAt_build {n : Nat} (f : Nat → Byte) (i : Nat) :
    (Bytes.build n f).byteAt i = if i < n then f i else 0 := by
  by_cases h : i < n <;> simp [Bytes.byteAt, Bytes.build, List.getD, h]

@[simp] theorem Bytes.byteAt_build_lt {n : Nat} (f : Nat → Byte) {i : Nat} (h : i < n) :
    (Bytes.build n f).byteAt i = f i := by
  simp [Bytes.byteAt_build, h]

theorem Bytes.byteAt_eq_getElem {n : Nat} (b : Bytes n) {i : Nat} (h : i < n) : b.byteAt i = b[i] := by
  simp [Bytes.byteAt, List.getD, h]

theorem Bytes.byteAt_ge {n : Nat} (b : Bytes n) {i : Nat} (h : n ≤ i) : b.byteAt i = 0 := by
  simp [Bytes.byteAt, List.getD, h]

theorem Bytes.ext_byteAt {n : Nat} {a b : Bytes n} (h : ∀ i, i < n → a.byteAt i = b.byteAt i) : a = b := by
  apply Vector.ext
  intro i hi
  simpa [Bytes.byteAt_eq_getElem, hi] using h i hi

theorem Bytes.build_congr {n : Nat} {f g : Nat → Byte} (h : ∀ i, i < n → f i = g i) :
    Bytes.build n f = Bytes.build n g :=
  Bytes.ext_byteAt fun i hi => by simp [hi, h i hi]

@[simp] theorem Bytes.build_byteAt {n : Nat} (b : Bytes n) : (Bytes.build n fun i => b.byteAt i) = b :=
  Bytes.ext_byteAt fun i hi => by simp [hi]

@[simp] theorem Bytes.byteAt_zeros (n i : Nat) : (zeros n).byteAt i = 0 := by
  simp [zeros, Bytes.byteAt_build]

@[simp] theorem Bytes.byteAt_xor {n : Nat} (a b : Bytes n) (i : Nat) :
    (a.xor b).byteAt i = a.byteAt i ^^^ b.byteAt i := by
  by_cases h : i < n
  · simp [Bytes.xor, h]
  · simp [Bytes.byteAt_ge _ (Nat.le_of_not_lt h)]

theorem Bytes.byteAt_slice {n : Nat} (b : Bytes n) (lo len i : Nat) (h : i < len) :
    (b.slice lo len).byteAt i = b.byteAt (lo + i) := by
  simp [Bytes.slice, h]

theorem Bytes.byteAt_cat {m n : Nat} (a : Bytes m) (b : Bytes n) {i : Nat} (h : i < m + n) :
    (a.cat b).byteAt i = if i < m then a.byteAt i else b.byteAt (i - m) := by
  simp [Bytes.cat, h]

theorem Bytes.byteAt_setByte {n : Nat} (b : Bytes n) (i j : Nat) (v : Byte) (h : j < n) :
    (b.setByte i v).byteAt j = if j = i then v else b.byteAt j := by
  simp [Bytes.setByte, h]

theorem Bytes.byteAt_fill (n : Nat) (l : List Byte) (i : Nat) (h : i < n) :
    (Bytes.fill n l).byteAt i = l.getD i 0 := by
  simp [Bytes.fill, h]

@[simp] theorem Bytes.length_bytes {n : Nat} (b : Bytes n) : b.bytes.length = n := by simp [Bytes.bytes]

theorem Bytes.getD_bytes {n : Nat} (b : Bytes n) (i : Nat) : b.bytes.getD i 0 = b.byteAt i := rfl

theorem Bytes.bytes_inj {n : Nat} {a b : Bytes n} (h : a.bytes = b.bytes) : a = b :=
  Bytes.ext_byteAt fun i _ => by rw [← Bytes.getD_bytes, ← Bytes.getD_bytes, h]

@[simp] theorem Bytes.length_firstBytes {n : Nat} (b : Bytes n) (len : Nat) :
    (b.firstBytes len).length = min len n := by
  simp [Bytes.firstBytes]

/-- A buffer filled with a text that fits gives the text back. -/
theorem Bytes.firstBytes_fill (n : Nat) (l : List Byte) (h : l.length ≤ n) :
    (Bytes.fill n l).firstBytes l.length = l := by
  apply List.ext_getElem
  · simp [h]
  · intro i h1 h2
    have hi : i < n := by omega
    simp [Bytes.firstBytes, Bytes.bytes, Bytes.fill, Bytes.build, List.getD, h2]

/-- The byte `i` of a byte string, as the element of its list. -/
theorem Bytes.getElem_bytes {n : Nat} (b : Bytes n) {i : Nat} (h : i < b.bytes.length) : b.bytes[i] = b.byteAt i := by
  rw [← Bytes.getD_bytes, List.getD, List.getElem?_eq_getElem h, Option.getD_some]

/-- R11: the bytes of `a ‖ b`. -/
@[simp] theorem Bytes.bytes_cat {m n : Nat} (a : Bytes m) (b : Bytes n) : (a.cat b).bytes = a.bytes ++ b.bytes := by
  apply List.ext_getElem
  · simp
  · intro i h1 h2
    have hi : i < m + n := by simpa using h1
    rw [Bytes.getElem_bytes, Bytes.byteAt_cat _ _ hi, List.getElem_append]
    simp [Bytes.getElem_bytes]

/-- The slice of all of a byte string is the byte string. -/
@[simp] theorem Bytes.slice_full {n : Nat} (b : Bytes n) : b.slice 0 n = b :=
  Bytes.ext_byteAt fun i hi => by simp [Bytes.byteAt_slice _ _ _ _ hi]

@[simp] theorem Bytes.fill_bytes {n : Nat} (b : Bytes n) : Bytes.fill n b.bytes = b :=
  Bytes.ext_byteAt fun i hi => by rw [Bytes.byteAt_fill _ _ _ hi, Bytes.getD_bytes]

@[simp] theorem Bytes.slice_cat_left {m n : Nat} (a : Bytes m) (b : Bytes n) : (a.cat b).slice 0 m = a :=
  Bytes.ext_byteAt fun i hi => by
    rw [Bytes.byteAt_slice _ _ _ _ hi, Nat.zero_add, Bytes.byteAt_cat _ _ (by omega), if_pos hi]

@[simp] theorem Bytes.slice_cat_right {m n : Nat} (a : Bytes m) (b : Bytes n) : (a.cat b).slice m n = b :=
  Bytes.ext_byteAt fun i hi => by
    rw [Bytes.byteAt_slice _ _ _ _ hi, Bytes.byteAt_cat _ _ (by omega), if_neg (by omega)]
    congr 1
    omega

theorem Bytes.xor_assoc {n : Nat} (a b c : Bytes n) : (a.xor b).xor c = a.xor (b.xor c) :=
  Bytes.ext_byteAt fun i _ => by simp [BitVec.xor_assoc]

theorem Bytes.xor_comm {n : Nat} (a b : Bytes n) : a.xor b = b.xor a :=
  Bytes.ext_byteAt fun i _ => by simp [BitVec.xor_comm]

@[simp] theorem Bytes.xor_self_right {n : Nat} (a b : Bytes n) : (a.xor b).xor b = a :=
  Bytes.ext_byteAt fun i _ => by simp

@[simp] theorem Bytes.xor_zeros {n : Nat} (a : Bytes n) : a.xor (zeros n) = a :=
  Bytes.ext_byteAt fun i _ => by simp

/-- R63: the big-endian word view loses no byte. -/
theorem wordByte_wordOfBytes (b0 b1 b2 b3 : Byte) :
    wordByte (wordOfBytes b0 b1 b2 b3) 0 = b0 ∧ wordByte (wordOfBytes b0 b1 b2 b3) 1 = b1 ∧
      wordByte (wordOfBytes b0 b1 b2 b3) 2 = b2 ∧ wordByte (wordOfBytes b0 b1 b2 b3) 3 = b3 := by
  refine ⟨?_, ?_, ?_, ?_⟩ <;> (apply BitVec.eq_of_getLsbD_eq; intro i hi)
  all_goals simp only [wordByte, wordOfBytes, BitVec.getLsbD_extractLsb', BitVec.getLsbD_append, hi, decide_true, Bool.true_and]
  all_goals (repeat' split) <;> first | omega | (congr 1; omega)

end Sys2Proof
end

