-- ==== Sys2Proof/Laws/Codec.lean ====
section
/-! SUPPORT. Small laws of the address codec's functions, said once for the proofs that use them. -/

namespace Sys2Proof

open Sys2Proof.Machine

/-- R107: Hex(d) has two characters a byte. -/
@[simp] theorem length_hex (d : List Byte) : (hex d).length = 2 * d.length := by
  induction d with
  | nil => rfl
  | cons x d ih => simp [hex] at ih ⊢; omega

@[simp] theorem hex_nil : hex [] = [] := rfl

@[simp] theorem hex_cons (x : Byte) (d : List Byte) :
    hex (x :: d) = nib (x.toNat / 16) :: nib (x.toNat % 16) :: hex d := rfl

/-- R107, R108: `val` reads back the character that `nib` writes. -/
theorem hexVal_nib (x : Nat) (h : x < 16) : hexVal (nib x) = some x := by
  interval_cases x <;> decide

/-- R108: the number of bytes that a hex text stands for. -/
theorem length_unhex {t : Text} {e : List Byte} (h : unhex t = some e) : t.length = 2 * e.length := by
  match t with
  | [] => simp [unhex] at h; simp [h]
  | [_] => simp [unhex] at h
  | c :: d :: rest =>
    simp only [unhex] at h
    split at h
    · rename_i x y e' _ _ he
      simp only [Option.some.injEq] at h
      subst h
      have := length_unhex he
      simp
      omega
    · simp at h
termination_by t.length

/-- A text split at a separator has at least one part. -/
theorem splitAt_ne_nil (sep : Byte) (t : Text) : splitAt sep t ≠ [] := by
  induction t with
  | nil => simp [splitAt]
  | cons c cs ih =>
    simp only [splitAt]
    split
    · simp
    · split <;> simp_all

/-- A text without the separator is its own one part. -/
theorem splitAt_of_not_mem (sep : Byte) (t : Text) (h : sep ∉ t) : splitAt sep t = [t] := by
  induction t with
  | nil => rfl
  | cons c cs ih =>
    have hc : c ≠ sep := fun he => h (by simp [he])
    simp [splitAt, hc, ih fun hm => h (by simp [hm])]

/-- Splitting takes the first part off at the separator. -/
theorem splitAt_append_sep (sep : Byte) (p t : Text) (h : sep ∉ p) :
    splitAt sep (p ++ sep :: t) = p :: splitAt sep t := by
  induction p with
  | nil => simp [splitAt]
  | cons c cs ih =>
    have hc : c ≠ sep := fun he => h (by simp [he])
    simp [splitAt, hc, ih fun hm => h (by simp [hm])]

/-- Splitting undoes joining, for parts that do not hold the separator. -/
theorem splitAt_joinWith (sep : Byte) (parts : List Text) (hne : parts ≠ []) (h : ∀ p ∈ parts, sep ∉ p) :
    splitAt sep (joinWith sep parts) = parts := by
  induction parts with
  | nil => exact absurd rfl hne
  | cons p ps ih =>
    cases ps with
    | nil => exact splitAt_of_not_mem sep p (h p (by simp))
    | cons q qs =>
      have hq : ∀ x ∈ q :: qs, sep ∉ x := fun x hx => h x (List.mem_cons_of_mem _ hx)
      rw [show joinWith sep (p :: q :: qs) = p ++ sep :: joinWith sep (q :: qs) from rfl,
        splitAt_append_sep sep p _ (h p (by simp)), ih (by simp) hq]

/-- R106: the leftmost longest run stays within the list. -/
theorem longestZeroRun_bounds (g : List Nat) (i : Nat) :
    i ≤ (longestZeroRun i g).1 ∧ (longestZeroRun i g).1 + (longestZeroRun i g).2 ≤ i + g.length := by
  have hl : ∀ g : List Nat, leadingZeros g ≤ g.length := by
    intro g
    induction g with
    | nil => simp [leadingZeros]
    | cons x xs ih =>
      simp only [leadingZeros, List.length_cons]
      split <;> omega
  induction g generalizing i with
  | nil => simp [longestZeroRun]
  | cons x xs ih =>
    simp only [longestZeroRun]
    split
    · have := hl (x :: xs)
      simp only [List.length_cons] at *
      omega
    · have := ih (i + 1)
      simp only [List.length_cons]
      omega

/-! ### Joining and splitting -/

/-- `joinWith` is the library's `intercalate`. -/
theorem joinWith_eq_intercalate (sep : Byte) (parts : List Text) : joinWith sep parts = List.intercalate [sep] parts := by
  induction parts with
  | nil => rfl
  | cons p ps ih =>
    cases ps with
    | nil => simp [joinWith]
    | cons q qs => simp [joinWith, ih, List.intercalate_cons_cons]

/-- Joining undoes splitting. -/
theorem joinWith_splitAt (sep : Byte) (t : Text) : joinWith sep (splitAt sep t) = t := by
  induction t with
  | nil => rfl
  | cons c cs ih =>
    simp only [splitAt]
    split
    · rename_i h; subst h
      cases h : splitAt c cs with
      | nil => exact absurd h (splitAt_ne_nil c cs)
      | cons g gs => rw [h] at ih; simp [joinWith, ih]
    · cases h : splitAt sep cs with
      | nil => exact absurd h (splitAt_ne_nil sep cs)
      | cons g gs =>
        rw [h] at ih
        cases gs with
        | nil => simp [joinWith] at ih ⊢; exact ih
        | cons q qs => simp [joinWith] at ih ⊢; exact ih

/-- A part of a split text does not hold the separator. -/
theorem not_mem_of_mem_splitAt {sep : Byte} {t p : Text} (h : p ∈ splitAt sep t) : sep ∉ p := by
  induction t generalizing p with
  | nil => simp [splitAt] at h; simp [h]
  | cons c cs ih =>
    simp only [splitAt] at h
    split at h
    · rcases List.mem_cons.mp h with rfl | h
      · simp
      · exact ih h
    · rename_i hc
      cases hs : splitAt sep cs with
      | nil => exact absurd hs (splitAt_ne_nil sep cs)
      | cons g gs =>
        simp only [hs] at h ih
        rcases List.mem_cons.mp h with rfl | h
        · have := ih (p := g) (by simp)
          simp [this]; exact fun h => hc h.symm
        · exact ih (by simp [h])

/-- R104: the text is what stands before the first `::`, the `::`, and what stands after it. -/
theorem splitDoubleColon_eq_some {u l r : Text} (h : splitDoubleColon u = some (l, r)) : u = l ++ [chColon, chColon] ++ r := by
  induction u generalizing l with
  | nil => simp [splitDoubleColon] at h
  | cons a u ih =>
    cases u with
    | nil => simp [splitDoubleColon] at h
    | cons b rest =>
      simp only [splitDoubleColon] at h
      split at h
      · rename_i hab; obtain ⟨rfl, rfl⟩ := hab; simp at h; obtain ⟨rfl, rfl⟩ := h; rfl
      · cases hs : splitDoubleColon (b :: rest) with
        | none => simp [hs] at h
        | some p =>
          obtain ⟨l', r'⟩ := p
          simp [hs] at h
          obtain ⟨rfl, rfl⟩ := h
          simpa using ih hs

/-! ### The spellings of Safety.lean -/

/-- R107: `nib` writes the sixteen characters. -/
theorem getElem?_hexCharacters (x : Nat) (h : x < 16) : hexCharacters[x]? = some (nib x) := by
  interval_cases x <;> rfl

/-- R108: `hexVal` reads the hex digits of either case, each with its value. -/
theorem hexVal_eq_some_iff (c : Byte) (x : Nat) : hexVal c = some x ↔ HexDigitIs c x := by
  have lt : ∀ x, HexDigitIs c x → x < 16 := by
    rintro x (h | h) <;> exact (List.getElem?_eq_some_iff.mp h).1
  have key : ∀ c : Fin 256, ∀ x : Fin 16,
      hexVal (BitVec.ofFin c) = some x.val ↔
        (hexCharacters[x.val]? = some (BitVec.ofFin c) ∨ hexCapitals[x.val]? = some (BitVec.ofFin c)) := by
    decide +kernel
  refine ⟨fun h => ?_, fun h => (key c.toFin ⟨x, lt x h⟩).mpr h⟩
  have hx : x < 16 := by
    simp only [hexVal] at h
    split at h
    · simp at h; omega
    · split at h
      · simp at h; omega
      · split at h <;> simp at h
        omega
  exact (key c.toFin ⟨x, hx⟩).mp h

/-- R105: `dec` is the spelling in base 10. -/
theorem dec_eq_numeral (x : Byte) : dec x = numeral 10 x.toNat := by
  have : ∀ x : Fin 256, dec (BitVec.ofFin x) = numeral 10 x.val := by decide +kernel
  exact this x.toFin

/-- A number below the base is spelled by one digit. -/
theorem numeral_of_lt {base n : Nat} (h : n < base) (hb : base ≤ 16) : numeral base n = [nib n] := by
  have hd : ∀ x : Fin 16, BitVec.ofNat 8 (Nat.digitChar x.val).toNat = nib x.val := by decide
  simp [numeral, Nat.toDigits_of_lt_base h]
  exact hd ⟨n, by omega⟩

/-- The last digit of a number is the remainder by the base. -/
theorem numeral_snoc {base n : Nat} (hb : 2 ≤ base) (hb' : base ≤ 16) (h : base ≤ n) :
    numeral base n = numeral base (n / base) ++ [nib (n % base)] := by
  have hm : n % base < base := Nat.mod_lt _ (by omega)
  have e := Nat.toDigits_append_toDigits (b := base) (n := n / base) (d := n % base) (by omega) (Nat.div_pos h (by omega)) hm
  rw [Nat.div_add_mod] at e
  rw [numeral, ← e, List.map_append]
  have := numeral_of_lt hm hb'
  simp only [numeral] at this ⊢
  rw [this]

/-- R106: `hex4` is the spelling in base 16. -/
theorem hex4_eq_numeral (n : Nat) (h : n < 65536) : hex4 n = numeral 16 n := by
  unfold hex4
  have l : ∀ m, m < 16 → numeral 16 m = [nib m] := fun m hm => numeral_of_lt hm (by decide)
  have sn : ∀ m, 16 ≤ m → numeral 16 m = numeral 16 (m / 16) ++ [nib (m % 16)] :=
    fun m hm => numeral_snoc (by decide) (by decide) hm
  split
  · rw [l n (by omega)]
  · split
    · rw [sn n (by omega), l (n / 16) (by omega)]; rfl
    · split
      · rw [sn n (by omega), sn (n / 16) (by omega), l (n / 16 / 16) (by omega)]
        simp [Nat.div_div_eq_div_mul]
      · rw [sn n (by omega), sn (n / 16) (by omega), sn (n / 16 / 16) (by omega), l (n / 16 / 16 / 16) (by omega)]
        simp [Nat.div_div_eq_div_mul]

/-! ### Groups and zero runs -/

/-- R106: the groups that `leadingZeros` counts are zero. -/
theorem leadingZeros_get (g : List Nat) : ∀ k, k < leadingZeros g → g[k]? = some 0 := by
  induction g with
  | nil => simp [leadingZeros]
  | cons x xs ih =>
    intro k hk
    simp only [leadingZeros] at hk
    split at hk
    · rename_i hx; subst hx
      cases k with
      | zero => rfl
      | succ k => simpa using ih k (by omega)
    · omega

/-- R106: `leadingZeros` counts every zero group at the head of a list. -/
theorem le_leadingZeros (g : List Nat) (n : Nat) (h : ∀ k, k < n → g[k]? = some 0) : n ≤ leadingZeros g := by
  induction g generalizing n with
  | nil =>
    cases n with
    | zero => simp
    | succ n => simpa using h 0 (by omega)
  | cons x xs ih =>
    cases n with
    | zero => simp
    | succ n =>
      have h0 := h 0 (by omega)
      simp at h0
      have := ih n fun k hk => by simpa using h (k + 1) (by omega)
      simp [leadingZeros, h0, this]

/-- R106: the longest run is a run of zero groups. -/
theorem longestZeroRun_zero (g : List Nat) (i : Nat) :
    ∀ k, k < (longestZeroRun i g).2 → g[(longestZeroRun i g).1 - i + k]? = some 0 := by
  induction g generalizing i with
  | nil => simp [longestZeroRun]
  | cons x xs ih =>
    simp only [longestZeroRun]
    split
    · intro k hk; simpa using leadingZeros_get _ k hk
    · intro k hk
      have hb := (longestZeroRun_bounds xs (i + 1)).1
      have := ih (i + 1) k hk
      rw [show (longestZeroRun (i + 1) xs).1 - i + k = ((longestZeroRun (i + 1) xs).1 - (i + 1) + k) + 1 by omega]
      simpa using this

/-- R106: no run is longer than the longest, and none of its length is further left. -/
theorem longestZeroRun_max (g : List Nat) (i j n : Nat) (hn : 1 ≤ n) (h : ∀ k, k < n → g[j + k]? = some 0) :
    n < (longestZeroRun i g).2 ∨ (n = (longestZeroRun i g).2 ∧ (longestZeroRun i g).1 ≤ i + j) := by
  induction g generalizing i j with
  | nil => simpa using h 0 (by omega)
  | cons x xs ih =>
    cases j with
    | zero =>
      have hl := le_leadingZeros (x :: xs) n fun k hk => by simpa using h k hk
      simp only [longestZeroRun]
      split
      · simp; omega
      · simp; omega
    | succ j =>
      have := ih (i + 1) j fun k hk => by simpa [show j + 1 + k = (j + k) + 1 by omega] using h k hk
      simp only [longestZeroRun]
      split
      · simp; omega
      · omega

/-- R60: the codec's group is that of Safety.lean. -/
theorem groupOf_eq (b : Block) (g : Nat) : groupOf b g = blockGroup b g := by
  simp [groupOf, blockGroup, Nat.mul_comm]

/-- R60: a group is a 16-bit value. -/
theorem blockGroup_lt (b : Block) (g : Nat) : blockGroup b g < 65536 := by
  have := (b.byteAt (2 * g)).isLt; have := (b.byteAt (2 * g+1)).isLt
  simp only [blockGroup]; omega

/-- R106: the list of the 8 groups, by index. -/
theorem groupsOf_get (b : Block) (k : Nat) (hk : k < 8) : (groupsOf b)[k]? = some (blockGroup b k) := by
  simp [groupsOf, groupOf_eq, hk]

/-- R105: the codec's test of the IPv4-mapped prefix. -/
theorem isMapped_iff (b : Block) : isMapped b = true ↔ HasMappedPrefix b := by
  rcases b with ⟨⟨l⟩, hl⟩
  simp at hl
  match l, hl with
  | [b0,b1,b2,b3,b4,b5,b6,b7,b8,b9,b10,b11,b12,b13,b14,b15], _ =>
  simp [isMapped, HasMappedPrefix, Bytes.firstBytes, Bytes.bytes, Bytes.byteAt, mappedPrefix]
  constructor
  · rintro ⟨rfl, rfl, rfl, rfl, rfl, rfl, rfl, rfl, rfl, rfl, rfl, rfl⟩
    refine ⟨?_, rfl, rfl⟩
    intro i hi; interval_cases i <;> rfl
  · rintro ⟨h, rfl, rfl⟩
    refine ⟨h 0 (by omega), h 1 (by omega), h 2 (by omega), h 3 (by omega), h 4 (by omega), h 5 (by omega), h 6 (by omega), h 7 (by omega), h 8 (by omega), h 9 (by omega), rfl, rfl⟩

end Sys2Proof
end

