-- ==== Sys2Proof/Laws/State.lean ====
section
/-! SUPPORT. One lemma per field of State for each named update of it, all true by rfl, so that no proof unfolds a record
update. -/

namespace Sys2Proof.Machine

/-! ### setErr -/

@[simp] theorem State.setErr_key (s : State) (e : Err) : (s.setErr e).key = s.key := rfl
@[simp] theorem State.setErr_keylen (s : State) (e : Err) : (s.setErr e).keylen = s.keylen := rfl
@[simp] theorem State.setErr_twk (s : State) (e : Err) : (s.setErr e).twk = s.twk := rfl
@[simp] theorem State.setErr_twklen (s : State) (e : Err) : (s.setErr e).twklen = s.twklen := rfl
@[simp] theorem State.setErr_blk (s : State) (e : Err) : (s.setErr e).blk = s.blk := rfl
@[simp] theorem State.setErr_abuf (s : State) (e : Err) : (s.setErr e).abuf = s.abuf := rfl
@[simp] theorem State.setErr_alen (s : State) (e : Err) : (s.setErr e).alen = s.alen := rfl
@[simp] theorem State.setErr_dbuf (s : State) (e : Err) : (s.setErr e).dbuf = s.dbuf := rfl
@[simp] theorem State.setErr_dlen (s : State) (e : Err) : (s.setErr e).dlen = s.dlen := rfl
@[simp] theorem State.setErr_rks (s : State) (e : Err) : (s.setErr e).rks = s.rks := rfl
@[simp] theorem State.setErr_err (s : State) (e : Err) : (s.setErr e).err = e := rfl
@[simp] theorem State.setErr_rkv (s : State) (e : Err) : (s.setErr e).rkv = s.rkv := rfl
@[simp] theorem State.setErr_rksel (s : State) (e : Err) : (s.setErr e).rksel = s.rksel := rfl
@[simp] theorem State.setErr_ovr (s : State) (e : Err) : (s.setErr e).ovr = s.ovr := rfl
@[simp] theorem State.setErr_inflight (s : State) (e : Err) : (s.setErr e).inflight = s.inflight := rfl
@[simp] theorem State.setErr_host (s : State) (e : Err) : (s.setErr e).host = s.host := rfl
@[simp] theorem State.setErr_latency (s : State) (e : Err) : (s.setErr e).latency = s.latency := rfl
@[simp] theorem State.setErr_rng (s : State) (e : Err) : (s.setErr e).rng = s.rng := rfl
@[simp] theorem State.setErr_free (s : State) (e : Err) : (s.setErr e).free = s.free := rfl
@[simp] theorem State.setErr_resp (s : State) (e : Err) : (s.setErr e).resp = s.resp := rfl

/-! ### setBlk -/

@[simp] theorem State.setBlk_key (s : State) (b : Block) : (s.setBlk b).key = s.key := rfl
@[simp] theorem State.setBlk_keylen (s : State) (b : Block) : (s.setBlk b).keylen = s.keylen := rfl
@[simp] theorem State.setBlk_twk (s : State) (b : Block) : (s.setBlk b).twk = s.twk := rfl
@[simp] theorem State.setBlk_twklen (s : State) (b : Block) : (s.setBlk b).twklen = s.twklen := rfl
@[simp] theorem State.setBlk_blk (s : State) (b : Block) : (s.setBlk b).blk = b := rfl
@[simp] theorem State.setBlk_abuf (s : State) (b : Block) : (s.setBlk b).abuf = s.abuf := rfl
@[simp] theorem State.setBlk_alen (s : State) (b : Block) : (s.setBlk b).alen = s.alen := rfl
@[simp] theorem State.setBlk_dbuf (s : State) (b : Block) : (s.setBlk b).dbuf = s.dbuf := rfl
@[simp] theorem State.setBlk_dlen (s : State) (b : Block) : (s.setBlk b).dlen = s.dlen := rfl
@[simp] theorem State.setBlk_rks (s : State) (b : Block) : (s.setBlk b).rks = s.rks := rfl
@[simp] theorem State.setBlk_err (s : State) (b : Block) : (s.setBlk b).err = s.err := rfl
@[simp] theorem State.setBlk_rkv (s : State) (b : Block) : (s.setBlk b).rkv = s.rkv := rfl
@[simp] theorem State.setBlk_rksel (s : State) (b : Block) : (s.setBlk b).rksel = s.rksel := rfl
@[simp] theorem State.setBlk_ovr (s : State) (b : Block) : (s.setBlk b).ovr = s.ovr := rfl
@[simp] theorem State.setBlk_inflight (s : State) (b : Block) : (s.setBlk b).inflight = s.inflight := rfl
@[simp] theorem State.setBlk_host (s : State) (b : Block) : (s.setBlk b).host = s.host := rfl
@[simp] theorem State.setBlk_latency (s : State) (b : Block) : (s.setBlk b).latency = s.latency := rfl
@[simp] theorem State.setBlk_rng (s : State) (b : Block) : (s.setBlk b).rng = s.rng := rfl
@[simp] theorem State.setBlk_free (s : State) (b : Block) : (s.setBlk b).free = s.free := rfl
@[simp] theorem State.setBlk_resp (s : State) (b : Block) : (s.setBlk b).resp = s.resp := rfl

/-! ### setText -/

@[simp] theorem State.setText_key (s : State) (t : Text) : (s.setText t).key = s.key := rfl
@[simp] theorem State.setText_keylen (s : State) (t : Text) : (s.setText t).keylen = s.keylen := rfl
@[simp] theorem State.setText_twk (s : State) (t : Text) : (s.setText t).twk = s.twk := rfl
@[simp] theorem State.setText_twklen (s : State) (t : Text) : (s.setText t).twklen = s.twklen := rfl
@[simp] theorem State.setText_blk (s : State) (t : Text) : (s.setText t).blk = s.blk := rfl
@[simp] theorem State.setText_abuf (s : State) (t : Text) : (s.setText t).abuf = Bytes.fill 64 t := rfl
@[simp] theorem State.setText_alen (s : State) (t : Text) : (s.setText t).alen = BitVec.ofNat 8 t.length := rfl
@[simp] theorem State.setText_dbuf (s : State) (t : Text) : (s.setText t).dbuf = s.dbuf := rfl
@[simp] theorem State.setText_dlen (s : State) (t : Text) : (s.setText t).dlen = s.dlen := rfl
@[simp] theorem State.setText_rks (s : State) (t : Text) : (s.setText t).rks = s.rks := rfl
@[simp] theorem State.setText_err (s : State) (t : Text) : (s.setText t).err = s.err := rfl
@[simp] theorem State.setText_rkv (s : State) (t : Text) : (s.setText t).rkv = s.rkv := rfl
@[simp] theorem State.setText_rksel (s : State) (t : Text) : (s.setText t).rksel = s.rksel := rfl
@[simp] theorem State.setText_ovr (s : State) (t : Text) : (s.setText t).ovr = s.ovr := rfl
@[simp] theorem State.setText_inflight (s : State) (t : Text) : (s.setText t).inflight = s.inflight := rfl
@[simp] theorem State.setText_host (s : State) (t : Text) : (s.setText t).host = s.host := rfl
@[simp] theorem State.setText_latency (s : State) (t : Text) : (s.setText t).latency = s.latency := rfl
@[simp] theorem State.setText_rng (s : State) (t : Text) : (s.setText t).rng = s.rng := rfl
@[simp] theorem State.setText_free (s : State) (t : Text) : (s.setText t).free = s.free := rfl
@[simp] theorem State.setText_resp (s : State) (t : Text) : (s.setText t).resp = s.resp := rfl

/-! ### setData -/

@[simp] theorem State.setData_key (s : State) (d : List Byte) : (s.setData d).key = s.key := rfl
@[simp] theorem State.setData_keylen (s : State) (d : List Byte) : (s.setData d).keylen = s.keylen := rfl
@[simp] theorem State.setData_twk (s : State) (d : List Byte) : (s.setData d).twk = s.twk := rfl
@[simp] theorem State.setData_twklen (s : State) (d : List Byte) : (s.setData d).twklen = s.twklen := rfl
@[simp] theorem State.setData_blk (s : State) (d : List Byte) : (s.setData d).blk = s.blk := rfl
@[simp] theorem State.setData_abuf (s : State) (d : List Byte) : (s.setData d).abuf = s.abuf := rfl
@[simp] theorem State.setData_alen (s : State) (d : List Byte) : (s.setData d).alen = s.alen := rfl
@[simp] theorem State.setData_dbuf (s : State) (d : List Byte) : (s.setData d).dbuf = Bytes.fill 32 d := rfl
@[simp] theorem State.setData_dlen (s : State) (d : List Byte) : (s.setData d).dlen = BitVec.ofNat 8 d.length := rfl
@[simp] theorem State.setData_rks (s : State) (d : List Byte) : (s.setData d).rks = s.rks := rfl
@[simp] theorem State.setData_err (s : State) (d : List Byte) : (s.setData d).err = s.err := rfl
@[simp] theorem State.setData_rkv (s : State) (d : List Byte) : (s.setData d).rkv = s.rkv := rfl
@[simp] theorem State.setData_rksel (s : State) (d : List Byte) : (s.setData d).rksel = s.rksel := rfl
@[simp] theorem State.setData_ovr (s : State) (d : List Byte) : (s.setData d).ovr = s.ovr := rfl
@[simp] theorem State.setData_inflight (s : State) (d : List Byte) : (s.setData d).inflight = s.inflight := rfl
@[simp] theorem State.setData_host (s : State) (d : List Byte) : (s.setData d).host = s.host := rfl
@[simp] theorem State.setData_latency (s : State) (d : List Byte) : (s.setData d).latency = s.latency := rfl
@[simp] theorem State.setData_rng (s : State) (d : List Byte) : (s.setData d).rng = s.rng := rfl
@[simp] theorem State.setData_free (s : State) (d : List Byte) : (s.setData d).free = s.free := rfl
@[simp] theorem State.setData_resp (s : State) (d : List Byte) : (s.setData d).resp = s.resp := rfl

/-! ### setSchedule -/

@[simp] theorem State.setSchedule_key (s : State) (k : KeySel) (rk : Bytes 176) : (s.setSchedule k rk).key = s.key := rfl
@[simp] theorem State.setSchedule_keylen (s : State) (k : KeySel) (rk : Bytes 176) : (s.setSchedule k rk).keylen = s.keylen := rfl
@[simp] theorem State.setSchedule_twk (s : State) (k : KeySel) (rk : Bytes 176) : (s.setSchedule k rk).twk = s.twk := rfl
@[simp] theorem State.setSchedule_twklen (s : State) (k : KeySel) (rk : Bytes 176) : (s.setSchedule k rk).twklen = s.twklen := rfl
@[simp] theorem State.setSchedule_blk (s : State) (k : KeySel) (rk : Bytes 176) : (s.setSchedule k rk).blk = s.blk := rfl
@[simp] theorem State.setSchedule_abuf (s : State) (k : KeySel) (rk : Bytes 176) : (s.setSchedule k rk).abuf = s.abuf := rfl
@[simp] theorem State.setSchedule_alen (s : State) (k : KeySel) (rk : Bytes 176) : (s.setSchedule k rk).alen = s.alen := rfl
@[simp] theorem State.setSchedule_dbuf (s : State) (k : KeySel) (rk : Bytes 176) : (s.setSchedule k rk).dbuf = s.dbuf := rfl
@[simp] theorem State.setSchedule_dlen (s : State) (k : KeySel) (rk : Bytes 176) : (s.setSchedule k rk).dlen = s.dlen := rfl
@[simp] theorem State.setSchedule_rks (s : State) (k : KeySel) (rk : Bytes 176) : (s.setSchedule k rk).rks = rk := rfl
@[simp] theorem State.setSchedule_err (s : State) (k : KeySel) (rk : Bytes 176) : (s.setSchedule k rk).err = s.err := rfl
@[simp] theorem State.setSchedule_rkv (s : State) (k : KeySel) (rk : Bytes 176) : (s.setSchedule k rk).rkv = true := rfl
@[simp] theorem State.setSchedule_rksel (s : State) (k : KeySel) (rk : Bytes 176) : (s.setSchedule k rk).rksel = k := rfl
@[simp] theorem State.setSchedule_ovr (s : State) (k : KeySel) (rk : Bytes 176) : (s.setSchedule k rk).ovr = s.ovr := rfl
@[simp] theorem State.setSchedule_inflight (s : State) (k : KeySel) (rk : Bytes 176) : (s.setSchedule k rk).inflight = s.inflight := rfl
@[simp] theorem State.setSchedule_host (s : State) (k : KeySel) (rk : Bytes 176) : (s.setSchedule k rk).host = s.host := rfl
@[simp] theorem State.setSchedule_latency (s : State) (k : KeySel) (rk : Bytes 176) : (s.setSchedule k rk).latency = s.latency := rfl
@[simp] theorem State.setSchedule_rng (s : State) (k : KeySel) (rk : Bytes 176) : (s.setSchedule k rk).rng = s.rng := rfl
@[simp] theorem State.setSchedule_free (s : State) (k : KeySel) (rk : Bytes 176) : (s.setSchedule k rk).free = s.free := rfl
@[simp] theorem State.setSchedule_resp (s : State) (k : KeySel) (rk : Bytes 176) : (s.setSchedule k rk).resp = s.resp := rfl

/-! ### afterDraw -/

@[simp] theorem State.afterDraw_key (s : State) (n : Nat) : (s.afterDraw n).key = s.key := rfl
@[simp] theorem State.afterDraw_keylen (s : State) (n : Nat) : (s.afterDraw n).keylen = s.keylen := rfl
@[simp] theorem State.afterDraw_twk (s : State) (n : Nat) : (s.afterDraw n).twk = s.twk := rfl
@[simp] theorem State.afterDraw_twklen (s : State) (n : Nat) : (s.afterDraw n).twklen = s.twklen := rfl
@[simp] theorem State.afterDraw_blk (s : State) (n : Nat) : (s.afterDraw n).blk = s.blk := rfl
@[simp] theorem State.afterDraw_abuf (s : State) (n : Nat) : (s.afterDraw n).abuf = s.abuf := rfl
@[simp] theorem State.afterDraw_alen (s : State) (n : Nat) : (s.afterDraw n).alen = s.alen := rfl
@[simp] theorem State.afterDraw_dbuf (s : State) (n : Nat) : (s.afterDraw n).dbuf = s.dbuf := rfl
@[simp] theorem State.afterDraw_dlen (s : State) (n : Nat) : (s.afterDraw n).dlen = s.dlen := rfl
@[simp] theorem State.afterDraw_rks (s : State) (n : Nat) : (s.afterDraw n).rks = s.rks := rfl
@[simp] theorem State.afterDraw_err (s : State) (n : Nat) : (s.afterDraw n).err = s.err := rfl
@[simp] theorem State.afterDraw_rkv (s : State) (n : Nat) : (s.afterDraw n).rkv = s.rkv := rfl
@[simp] theorem State.afterDraw_rksel (s : State) (n : Nat) : (s.afterDraw n).rksel = s.rksel := rfl
@[simp] theorem State.afterDraw_ovr (s : State) (n : Nat) : (s.afterDraw n).ovr = s.ovr := rfl
@[simp] theorem State.afterDraw_inflight (s : State) (n : Nat) : (s.afterDraw n).inflight = s.inflight := rfl
@[simp] theorem State.afterDraw_host (s : State) (n : Nat) : (s.afterDraw n).host = s.host := rfl
@[simp] theorem State.afterDraw_latency (s : State) (n : Nat) : (s.afterDraw n).latency = s.latency := rfl
@[simp] theorem State.afterDraw_rng (s : State) (n : Nat) : (s.afterDraw n).rng = s.rng.drop n := rfl
@[simp] theorem State.afterDraw_free (s : State) (n : Nat) : (s.afterDraw n).free = s.free + (n - s.rng.length) := rfl
@[simp] theorem State.afterDraw_resp (s : State) (n : Nat) : (s.afterDraw n).resp = s.resp := rfl

/-! ### resetRegisters -/

@[simp] theorem State.resetRegisters_key (s : State) : s.resetRegisters.key = State.reset.key := rfl
@[simp] theorem State.resetRegisters_keylen (s : State) : s.resetRegisters.keylen = State.reset.keylen := rfl
@[simp] theorem State.resetRegisters_twk (s : State) : s.resetRegisters.twk = State.reset.twk := rfl
@[simp] theorem State.resetRegisters_twklen (s : State) : s.resetRegisters.twklen = State.reset.twklen := rfl
@[simp] theorem State.resetRegisters_blk (s : State) : s.resetRegisters.blk = State.reset.blk := rfl
@[simp] theorem State.resetRegisters_abuf (s : State) : s.resetRegisters.abuf = State.reset.abuf := rfl
@[simp] theorem State.resetRegisters_alen (s : State) : s.resetRegisters.alen = State.reset.alen := rfl
@[simp] theorem State.resetRegisters_dbuf (s : State) : s.resetRegisters.dbuf = State.reset.dbuf := rfl
@[simp] theorem State.resetRegisters_dlen (s : State) : s.resetRegisters.dlen = State.reset.dlen := rfl
@[simp] theorem State.resetRegisters_rks (s : State) : s.resetRegisters.rks = State.reset.rks := rfl
@[simp] theorem State.resetRegisters_err (s : State) : s.resetRegisters.err = State.reset.err := rfl
@[simp] theorem State.resetRegisters_rkv (s : State) : s.resetRegisters.rkv = State.reset.rkv := rfl
@[simp] theorem State.resetRegisters_rksel (s : State) : s.resetRegisters.rksel = State.reset.rksel := rfl
@[simp] theorem State.resetRegisters_ovr (s : State) : s.resetRegisters.ovr = State.reset.ovr := rfl
@[simp] theorem State.resetRegisters_inflight (s : State) : s.resetRegisters.inflight = State.reset.inflight := rfl
@[simp] theorem State.resetRegisters_host (s : State) : s.resetRegisters.host = s.host := rfl
@[simp] theorem State.resetRegisters_latency (s : State) : s.resetRegisters.latency = s.latency := rfl
@[simp] theorem State.resetRegisters_rng (s : State) : s.resetRegisters.rng = s.rng := rfl
@[simp] theorem State.resetRegisters_free (s : State) : s.resetRegisters.free = s.free := rfl
@[simp] theorem State.resetRegisters_resp (s : State) : s.resetRegisters.resp = s.resp := rfl

/-! ### Operands read through an update -/

@[simp] theorem State.setErr_keyA (s : State) (e : Err) : (s.setErr e).keyA = s.keyA := rfl
@[simp] theorem State.setErr_keyB (s : State) (e : Err) : (s.setErr e).keyB = s.keyB := rfl
@[simp] theorem State.setErr_twk8 (s : State) (e : Err) : (s.setErr e).twk8 = s.twk8 := rfl
@[simp] theorem State.setErr_keyHalf (s : State) (e : Err) (h : KeySel) : (s.setErr e).keyHalf h = s.keyHalf h := by cases h <;> rfl
@[simp] theorem State.setErr_busy (s : State) (e : Err) : (s.setErr e).busy = s.busy := rfl
@[simp] theorem State.setErr_text (s : State) (e : Err) : (s.setErr e).text = s.text := rfl
@[simp] theorem State.setErr_data (s : State) (e : Err) : (s.setErr e).data = s.data := rfl
@[simp] theorem State.setBlk_keyA (s : State) (b : Block) : (s.setBlk b).keyA = s.keyA := rfl
@[simp] theorem State.setBlk_keyB (s : State) (b : Block) : (s.setBlk b).keyB = s.keyB := rfl
@[simp] theorem State.setBlk_twk8 (s : State) (b : Block) : (s.setBlk b).twk8 = s.twk8 := rfl
@[simp] theorem State.setBlk_keyHalf (s : State) (b : Block) (h : KeySel) : (s.setBlk b).keyHalf h = s.keyHalf h := by cases h <;> rfl
@[simp] theorem State.setBlk_busy (s : State) (b : Block) : (s.setBlk b).busy = s.busy := rfl
@[simp] theorem State.setBlk_text (s : State) (b : Block) : (s.setBlk b).text = s.text := rfl
@[simp] theorem State.setBlk_data (s : State) (b : Block) : (s.setBlk b).data = s.data := rfl
@[simp] theorem State.setText_keyA (s : State) (t : Text) : (s.setText t).keyA = s.keyA := rfl
@[simp] theorem State.setText_keyB (s : State) (t : Text) : (s.setText t).keyB = s.keyB := rfl
@[simp] theorem State.setText_twk8 (s : State) (t : Text) : (s.setText t).twk8 = s.twk8 := rfl
@[simp] theorem State.setText_keyHalf (s : State) (t : Text) (h : KeySel) : (s.setText t).keyHalf h = s.keyHalf h := by cases h <;> rfl
@[simp] theorem State.setText_busy (s : State) (t : Text) : (s.setText t).busy = s.busy := rfl
@[simp] theorem State.setText_data (s : State) (t : Text) : (s.setText t).data = s.data := rfl
@[simp] theorem State.setData_keyA (s : State) (d : List Byte) : (s.setData d).keyA = s.keyA := rfl
@[simp] theorem State.setData_keyB (s : State) (d : List Byte) : (s.setData d).keyB = s.keyB := rfl
@[simp] theorem State.setData_twk8 (s : State) (d : List Byte) : (s.setData d).twk8 = s.twk8 := rfl
@[simp] theorem State.setData_keyHalf (s : State) (d : List Byte) (h : KeySel) : (s.setData d).keyHalf h = s.keyHalf h := by cases h <;> rfl
@[simp] theorem State.setData_busy (s : State) (d : List Byte) : (s.setData d).busy = s.busy := rfl
@[simp] theorem State.setData_text (s : State) (d : List Byte) : (s.setData d).text = s.text := rfl
@[simp] theorem State.setSchedule_keyA (s : State) (k : KeySel) (rk : Bytes 176) : (s.setSchedule k rk).keyA = s.keyA := rfl
@[simp] theorem State.setSchedule_keyB (s : State) (k : KeySel) (rk : Bytes 176) : (s.setSchedule k rk).keyB = s.keyB := rfl
@[simp] theorem State.setSchedule_twk8 (s : State) (k : KeySel) (rk : Bytes 176) : (s.setSchedule k rk).twk8 = s.twk8 := rfl
@[simp] theorem State.setSchedule_keyHalf (s : State) (k : KeySel) (rk : Bytes 176) (h : KeySel) : (s.setSchedule k rk).keyHalf h = s.keyHalf h := by cases h <;> rfl
@[simp] theorem State.setSchedule_busy (s : State) (k : KeySel) (rk : Bytes 176) : (s.setSchedule k rk).busy = s.busy := rfl
@[simp] theorem State.setSchedule_text (s : State) (k : KeySel) (rk : Bytes 176) : (s.setSchedule k rk).text = s.text := rfl
@[simp] theorem State.setSchedule_data (s : State) (k : KeySel) (rk : Bytes 176) : (s.setSchedule k rk).data = s.data := rfl
@[simp] theorem State.afterDraw_keyA (s : State) (n : Nat) : (s.afterDraw n).keyA = s.keyA := rfl
@[simp] theorem State.afterDraw_keyB (s : State) (n : Nat) : (s.afterDraw n).keyB = s.keyB := rfl
@[simp] theorem State.afterDraw_twk8 (s : State) (n : Nat) : (s.afterDraw n).twk8 = s.twk8 := rfl
@[simp] theorem State.afterDraw_keyHalf (s : State) (n : Nat) (h : KeySel) : (s.afterDraw n).keyHalf h = s.keyHalf h := by cases h <;> rfl
@[simp] theorem State.afterDraw_busy (s : State) (n : Nat) : (s.afterDraw n).busy = s.busy := rfl
@[simp] theorem State.afterDraw_text (s : State) (n : Nat) : (s.afterDraw n).text = s.text := rfl
@[simp] theorem State.afterDraw_data (s : State) (n : Nat) : (s.afterDraw n).data = s.data := rfl

@[simp] theorem State.setErr_setErr (s : State) (e f : Err) : (s.setErr e).setErr f = s.setErr f := rfl

end Sys2Proof.Machine
end

