-- ==== Sys2Proof/Laws/Ops.lean ====
section
/-! SUPPORT. What each shared operation of Machine/Ops.lean does: the end of a command, the RNG draw, the window map, and the
frame of a one-byte write. -/

namespace Sys2Proof.Machine

@[simp] theorem raise_eq (e : Err) (s : State) : raise e s = .next (s.setErr e) := rfl

@[simp] theorem complete_eq (s : State) : complete s = .next (s.setErr .ok) := rfl

@[simp] theorem andThen_next (s : State) (f : State → Result) : andThen (.next s) f = f s := rfl

/-- A result that goes on to a next state went through one. -/
theorem andThen_eq_next {r : Result} {f : State → Result} {t : State} (h : andThen r f = .next t) :
    ∃ u, r = .next u ∧ f u = .next t := by
  cases r with
  | next u => exact ⟨u, rfl, h⟩
  | fault e => simp [andThen] at h
  | refused e => simp [andThen] at h

/-- R74: a draw of `n` gives `n` bytes. -/
@[simp] theorem length_drawBytes (s : State) (n : Nat) : (drawBytes s n).length = n := by
  simp [drawBytes]
  omega

/-! ### The window map -/

/-- R20: no two registers of the window share an offset. -/
theorem windowMap_disjoint :
    ∀ v ∈ windowMap, ∀ w ∈ windowMap, v = w ∨ v.base + v.size ≤ w.base ∨ w.base + w.size ≤ v.base := by
  decide

theorem find?_eq_some_of_unique {α : Type} {p : α → Bool} {l : List α} {w : α} (hw : w ∈ l) (hp : p w = true)
    (hu : ∀ v ∈ l, p v = true → v = w) : l.find? p = some w := by
  cases h : l.find? p with
  | none => exact absurd hp (List.find?_eq_none.mp h w hw)
  | some v => rw [hu v (List.mem_of_find?_eq_some h) (List.find?_some h)]

/-- An offset of a row of the window map belongs to that row's register. -/
theorem locate_of_mem {w : WindowRow} (hw : w ∈ windowMap) {o : Nat} (h : w.base ≤ o) (h' : o < w.base + w.size) :
    locate o = (w.region, o - w.base) := by
  have key : windowMap.find? (fun v => decide (v.base ≤ o) && decide (o < v.base + v.size)) = some w := by
    refine find?_eq_some_of_unique hw (by simp [h, h']) fun v hv hp => ?_
    simp only [Bool.and_eq_true, decide_eq_true_eq] at hp
    rcases windowMap_disjoint v hv w hw with rfl | hd | hd
    · rfl
    · omega
    · omega
  simp [locate, key]

theorem locate_cmd {o : Nat} (h : o < 0x004) : locate o = (.cmd, o) :=
  locate_of_mem (w := ⟨.cmd, 0x000, 4⟩) (by decide) (Nat.zero_le o) h

theorem locate_status {o : Nat} (h : 0x004 ≤ o) (h' : o < 0x008) : locate o = (.status, o - 0x004) :=
  locate_of_mem (w := ⟨.status, 0x004, 4⟩) (by decide) h h'

theorem locate_keylen {o : Nat} (h : 0x008 ≤ o) (h' : o < 0x00C) : locate o = (.keylen, o - 0x008) :=
  locate_of_mem (w := ⟨.keylen, 0x008, 4⟩) (by decide) h h'

theorem locate_twklen {o : Nat} (h : 0x00C ≤ o) (h' : o < 0x010) : locate o = (.twklen, o - 0x00C) :=
  locate_of_mem (w := ⟨.twklen, 0x00C, 4⟩) (by decide) h h'

theorem locate_alen {o : Nat} (h : 0x010 ≤ o) (h' : o < 0x014) : locate o = (.alen, o - 0x010) :=
  locate_of_mem (w := ⟨.alen, 0x010, 4⟩) (by decide) h h'

theorem locate_dlen {o : Nat} (h : 0x014 ≤ o) (h' : o < 0x018) : locate o = (.dlen, o - 0x014) :=
  locate_of_mem (w := ⟨.dlen, 0x014, 4⟩) (by decide) h h'

theorem locate_key {o : Nat} (h : 0x020 ≤ o) (h' : o < 0x040) : locate o = (.key, o - 0x020) :=
  locate_of_mem (w := ⟨.key, 0x020, 32⟩) (by decide) h h'

theorem locate_twk {o : Nat} (h : 0x040 ≤ o) (h' : o < 0x050) : locate o = (.twk, o - 0x040) :=
  locate_of_mem (w := ⟨.twk, 0x040, 16⟩) (by decide) h h'

theorem locate_blk {o : Nat} (h : 0x050 ≤ o) (h' : o < 0x060) : locate o = (.blk, o - 0x050) :=
  locate_of_mem (w := ⟨.blk, 0x050, 16⟩) (by decide) h h'

theorem locate_abuf {o : Nat} (h : 0x060 ≤ o) (h' : o < 0x0A0) : locate o = (.abuf, o - 0x060) :=
  locate_of_mem (w := ⟨.abuf, 0x060, 64⟩) (by decide) h h'

theorem locate_dbuf {o : Nat} (h : 0x0A0 ≤ o) (h' : o < 0x0C0) : locate o = (.dbuf, o - 0x0A0) :=
  locate_of_mem (w := ⟨.dbuf, 0x0A0, 32⟩) (by decide) h h'

theorem locate_rks {o : Nat} (h : 0x100 ≤ o) (h' : o < 0x1B0) : locate o = (.rks, o - 0x100) :=
  locate_of_mem (w := ⟨.rks, 0x100, 176⟩) (by decide) h h'

theorem locate_reserved {o : Nat} (h : reservedOffset o = true ∨ windowSize ≤ o) : locate o = (.reserved, 0) := by
  have key : windowMap.find? (fun v => decide (v.base ≤ o) && decide (o < v.base + v.size)) = none := by
    simp only [reservedOffset, windowSize, Bool.or_eq_true, Bool.and_eq_true, decide_eq_true_eq] at h
    simp [windowMap]
    omega
  simp [locate, key]

/-- Every offset is in one row of the map, or reserved, or outside the window. -/
theorem offset_cases (o : Nat) :
    (∃ w ∈ windowMap, w.base ≤ o ∧ o < w.base + w.size) ∨ reservedOffset o = true ∨ windowSize ≤ o := by
  simp [windowMap, reservedOffset, windowSize]
  omega

/-- R31: where each STATUS field stands in STATUS bits 7:0. -/
theorem statusByte_fields (s : State) :
    (statusByte s).extractLsb' 0 4 = s.err.code ∧ (statusByte s).getLsbD 4 = s.rkv ∧
      (statusByte s).getLsbD 5 = decide (s.rksel = .b) ∧ (statusByte s).getLsbD 6 = s.busy ∧
      (statusByte s).getLsbD 7 = s.ovr := by
  unfold statusByte
  cases s.err <;> cases s.rkv <;> cases s.rksel <;> cases s.busy <;> cases s.ovr <;> decide

/-- R31, R306: the host's poll sees BUSY in bit 6 of the STATUS word. -/
theorem memRead_status_busy (s : State) : (memRead s 4 4).getLsbD 6 = s.busy := by
  have e : memRead s 4 4 = 0#24 ++ statusByte s := by
    simp [memRead, readWord, readByte, locate_status, wordOfBytes]
  rw [e, BitVec.getLsbD_append, if_pos (by decide)]
  exact (statusByte_fields s).2.2.2.1

/-- A read of the window depends on the registers only, not on what the host and the platform still hold. -/
theorem readByte_congr (s : State) (h : List HostAction) (l : List Nat) (r : List Byte) (f : Nat) (p : BusResponse)
    (o : Nat) : readByte { s with host := h, latency := l, rng := r, free := f, resp := p } o = readByte s o := rfl

/-! ### The frame of a host write -/

/-- What a one-byte host write leaves alone, whatever the offset. -/
theorem writeByte_frame (s : State) (o : Nat) (v : Byte) :
    (writeByte s o v).rks = s.rks ∧ (writeByte s o v).err = s.err ∧ (writeByte s o v).rksel = s.rksel ∧
      (writeByte s o v).ovr = s.ovr ∧ (writeByte s o v).inflight = s.inflight ∧ (writeByte s o v).host = s.host ∧
      (writeByte s o v).latency = s.latency ∧ (writeByte s o v).rng = s.rng ∧ (writeByte s o v).free = s.free ∧
      (writeByte s o v).resp = s.resp := by
  unfold writeByte
  split <;> simp

/-- A one-byte host write leaves KEY and STATUS.RKV alone, or it clears STATUS.RKV (R23). -/
theorem writeByte_key_or_rkv (s : State) (o : Nat) (v : Byte) :
    ((writeByte s o v).key = s.key ∧ (writeByte s o v).rkv = s.rkv) ∨ (writeByte s o v).rkv = false := by
  unfold writeByte
  split <;> simp

/-- A host write and what the host and the bus hold do not touch each other. -/
theorem writeByte_congr (s : State) (o : Nat) (v : Byte) (h : List HostAction) (p : BusResponse) :
    writeByte { s with host := h, resp := p } o v = { writeByte s o v with host := h, resp := p } := by
  unfold writeByte
  split <;> rfl

theorem writeWord_congr (s : State) (o : Nat) (v : Word) (h : List HostAction) (p : BusResponse) :
    writeWord { s with host := h, resp := p } o v = { writeWord s o v with host := h, resp := p } := by
  simp only [writeWord, writeByte_congr]

/-- A four-byte host write is its four one-byte writes, lowest offset first. -/
theorem writeWord_eq (s : State) (o : Nat) (v : Word) :
    writeWord s o v = writeByte (writeByte (writeByte (writeByte s o (wordByte v 0)) (o + 1) (wordByte v 1)) (o + 2)
      (wordByte v 2)) (o + 3) (wordByte v 3) := rfl

end Sys2Proof.Machine
end

