-- ==== Sys2Proof/Laws/Exec.lean ====
section
/-! SUPPORT. What the operations shared by the meanings do, each said once, and that every command answers a next state. -/

namespace Sys2Proof.Machine

@[simp] theorem onBlock_eq (f : Block → Block) (s : State) :
    onBlock f s = .next ((s.setBlk (f s.blk)).setErr .ok) := rfl

/-- R179: the three outcomes of a round-key command. -/
theorem withRoundKey_cases (r : Nat) (f : Block → Block → Block) (s : State) :
    (10 < r ∧ withRoundKey r f s = .next (s.setErr .badOperand)) ∨
    (r ≤ 10 ∧ s.rkv = false ∧ withRoundKey r f s = .next (s.setErr .noSchedule)) ∨
    (r ≤ 10 ∧ s.rkv = true ∧
      withRoundKey r f s = .next ((s.setBlk (f s.blk (roundKeyOf s.rks r))).setErr .ok)) := by
  unfold withRoundKey
  rcases Nat.lt_or_ge 10 r with h | h
  · exact .inl ⟨h, by simp [h]⟩
  · cases hv : s.rkv
    · exact .inr (.inl ⟨h, rfl, by simp [Nat.not_lt.mpr h]⟩)
    · exact .inr (.inr ⟨h, rfl, by simp [Nat.not_lt.mpr h]⟩)

/-- R221 items 1 and 2: what the first checks of an ND or NDX command can find. -/
theorem modeCheck_cases (k n : Nat) (s : State) :
    (s.keylen.toNat ≠ k ∧ modeCheck k n s = some .invalidKey) ∨
    (s.keylen.toNat = k ∧ (s.twklen.toNat ≠ 0 ∧ s.twklen.toNat ≠ n) ∧ modeCheck k n s = some .invalidTweak) ∨
    (s.keylen.toNat = k ∧ (s.twklen.toNat = 0 ∨ s.twklen.toNat = n) ∧ modeCheck k n s = none) := by
  unfold modeCheck
  by_cases hk : s.keylen.toNat = k
  · by_cases ht : s.twklen.toNat ≠ 0 ∧ s.twklen.toNat ≠ n
    · exact .inr (.inl ⟨hk, ht, by rw [if_neg (not_not.mpr hk), if_pos ht]⟩)
    · exact .inr (.inr ⟨hk, by omega, by rw [if_neg (not_not.mpr hk), if_neg ht]⟩)
  · exact .inl ⟨hk, by rw [if_pos hk]⟩

/-- The ends of the mode commands that parse ABUF: an error, or the next state that the parsed block gives. -/
theorem modeCheck_of_valid {k n : Nat} {s : State} (hk : s.keylen.toNat = k)
    (ht : s.twklen.toNat = 0 ∨ s.twklen.toNat = n) : modeCheck k n s = none := by
  rcases modeCheck_cases k n s with h | h | h
  · exact absurd hk h.1
  · omega
  · exact h.2.2

/-- Every command answers a next state: an error is a value in STATUS.ERR, never a stop (R272, R275). -/
theorem exec_next (i : Instr) (s : State) : ∃ t, exec i s = .next t := by
  cases i <;>
    simp only [exec, execNop, execClear, execKeyexp, execSubb, execIsubb, execShr, execIshr, execMixc, execImixc,
      execAddrk, execAddrkt, execEround, execEfinal, execDround, execDinit, execAesEnc, execAesDec, execKiasuEnc,
      execKiasuDec, execXexEnc, execXexDec, execParse, execFormat, execHexenc, execHexdec, execDetEnc, execDetDec,
      execNdEnc, execNdDec, execNdxEnc, execNdxDec, withRoundKey, onBlock_eq, complete_eq, raise_eq] <;>
    (repeat' split) <;> exact ⟨_, rfl⟩

end Sys2Proof.Machine
end

