-- ==== Sys2Proof/Laws/Engine.lean ====
section
/-! SUPPORT. What one slot of the machine can do, from the command engine up to `step`; the frame of a bus access. -/

namespace Sys2Proof.Machine

/-- A command word answers a next state: the command's, or the one with IllegalCommand. -/
theorem runCommand_cases (v : Word) (s : State) :
    (∃ i, decode v = .ok i ∧ runCommand v s = exec i s) ∨
    (∃ e, decode v = .error e ∧ runCommand v s = .next (s.setErr .illegalCommand)) := by
  unfold runCommand
  cases h : decode v with
  | ok i => exact .inl ⟨i, rfl, rfl⟩
  | error e => exact .inr ⟨e, rfl, rfl⟩

theorem runCommand_next (v : Word) (s : State) : ∃ t, runCommand v s = .next t := by
  rcases runCommand_cases v s with ⟨i, _, h⟩ | ⟨e, _, h⟩
  · rw [h]; exact exec_next i s
  · exact ⟨_, h⟩

/-- R305, R306: a CMD write runs its command at once, or starts its LATENCY. -/
theorem issue_cases (v : Word) (s : State) :
    (s.latency = [] ∧ issue v s = runCommand v s) ∨
    (∃ ls, s.latency = 0 :: ls ∧ issue v s = runCommand v { s with latency := ls }) ∨
    (∃ k ls, s.latency = (k + 1) :: ls ∧
      issue v s = .next { s with latency := ls, inflight := some ⟨v, k⟩ }) := by
  rcases h : s.latency with _ | ⟨_ | k, ls⟩
  · exact .inl ⟨rfl, by simp [issue, h]⟩
  · exact .inr (.inl ⟨ls, rfl, by simp [issue, h]⟩)
  · exact .inr (.inr ⟨k, ls, rfl, by simp [issue, h]⟩)

/-- R306: what one unit of LATENCY does. -/
theorem tick_cases (s : State) :
    (s.inflight = none ∧ tick s = .next s) ∨
    (∃ v, s.inflight = some ⟨v, 0⟩ ∧ tick s = runCommand v { s with inflight := none }) ∨
    (∃ v k, s.inflight = some ⟨v, k + 1⟩ ∧ tick s = .next { s with inflight := some ⟨v, k⟩ }) := by
  rcases h : s.inflight with _ | ⟨v, _ | k⟩
  · exact .inl ⟨rfl, by simp [tick, h]⟩
  · exact .inr (.inl ⟨v, rfl, by simp [tick, h]⟩)
  · exact .inr (.inr ⟨v, k, rfl, by simp [tick, h]⟩)

/-- R306: the end of a slot with a command in flight, in the words of Safety.lean. -/
theorem tick_eq_windowSlot (s : State) (v : Word) (left : Nat) (h : s.inflight = some ⟨v, left⟩) :
    tick s = windowSlot v left s := by
  cases left <;> simp [tick, h, windowSlot]

theorem tick_next (s : State) : ∃ t, tick s = .next t := by
  rcases tick_cases s with ⟨_, h⟩ | ⟨v, _, h⟩ | ⟨v, k, _, h⟩
  · exact ⟨_, h⟩
  · rw [h]; exact runCommand_next v _
  · exact ⟨_, h⟩

/-- R62, R64: the five things a bus access can be. -/
theorem busAccess_cases (a : Access) (s : State) :
    (windowSize ≤ a.offset ∧ busAccess a s = .fault (.outsideWindow a.offset)) ∨
    (a.offset < windowSize ∧ legalAccess a.width a.offset = false ∧
      busAccess a s = .next { s with resp := .busError }) ∨
    (a.offset < windowSize ∧ legalAccess a.width a.offset = true ∧ s.busy = true ∧ isStatusRead a = false ∧
      busAccess a s = .next (violate a s)) ∨
    (a.offset < windowSize ∧ legalAccess a.width a.offset = true ∧ (s.busy = false ∨ isStatusRead a = true) ∧
      busAccess a s = serve a s) := by
  unfold busAccess
  rcases Nat.lt_or_ge a.offset windowSize with ho | ho
  · have hn : ¬ a.offset ≥ windowSize := by omega
    cases hl : legalAccess a.width a.offset
    · exact .inr (.inl ⟨ho, rfl, by simp [hn]⟩)
    · by_cases hb : s.busy = true ∧ isStatusRead a = false
      · exact .inr (.inr (.inl ⟨ho, rfl, hb.1, hb.2, by simp [hn, hb]⟩))
      · refine .inr (.inr (.inr ⟨ho, rfl, ?_, ?_⟩))
        · cases h1 : s.busy <;> cases h2 : isStatusRead a <;> simp_all
        · have : (s.busy && !isStatusRead a) = false := by
            cases h1 : s.busy <;> cases h2 : isStatusRead a <;> simp_all
          simp [hn, this]
  · exact .inl ⟨ho, by simp [ho]⟩

/-- A legal access answers a next state. -/
theorem serve_next (a : Access) (s : State) : ∃ t, serve a s = .next t := by
  cases a with
  | read w o => exact ⟨_, rfl⟩
  | write w o v =>
    simp only [serve]
    split
    · rcases issue_cases v { s with resp := .done } with ⟨_, h⟩ | ⟨ls, _, h⟩ | ⟨k, ls, _, h⟩
      · rw [h]; exact runCommand_next v _
      · rw [h]; exact runCommand_next v _
      · exact ⟨_, h⟩
    · exact ⟨_, rfl⟩

/-- One step is the slot of the host's next action, or an idle slot. -/
theorem step_eq (s : State) :
    (s.host = [] ∧ step s = slot .idle s) ∨ (∃ a rest, s.host = a :: rest ∧ step s = slot a { s with host := rest }) := by
  rcases h : s.host with _ | ⟨a, rest⟩
  · exact .inl ⟨rfl, by simp [step, nextSlot, h]⟩
  · exact .inr ⟨a, rest, rfl, by simp [step, nextSlot, h]⟩

/-- The slot of an action: the action alone when no command is in flight, else the action and then one unit of LATENCY. -/
theorem slot_cases (a : HostAction) (s : State) :
    (s.busy = false ∧ slot a s = act a s) ∨ (s.busy = true ∧ slot a s = andThen (act a s) tick) := by
  unfold slot
  cases h : s.busy <;> simp

end Sys2Proof.Machine
end

