-- ==== Sys2Proof/Laws/PerInstr.lean ====
section
/-! SUPPORT. Laws said of each command as a term: the family TableRow, that a well-formed command's word matches its row of
the opcode map under the mask of its field class (rules R83, R84). -/

namespace Sys2Proof

/-- R83: `(v AND e.mask) = e.match`, with `e.match = zext_32(OP)`, for the word of the command and the row of its opcode;
and the row's class is the command's. -/
def Laws.TableRow.Statement (i : Instr) : Prop :=
  i.WellFormed = true →
    encode i &&& i.cls.mask = i.op.setWidth 32 ∧
    ∃ row ∈ opTable, row.op = i.op ∧ row.cls = i.cls ∧ row.make i.round i.ksel = i

/-- The row of a command, by its number in the opcode map. -/
theorem Laws.TableRow.of_index (i : Instr) (n : Nat) (hn : n < opTable.length)
    (hm : i.WellFormed = true → encode i &&& i.cls.mask = i.op.setWidth 32)
    (hr : (opTable[n]).op = i.op ∧ (opTable[n]).cls = i.cls ∧ (opTable[n]).make i.round i.ksel = i) :
    Laws.TableRow.Statement i :=
  fun hw => ⟨hm hw, opTable[n], List.getElem_mem hn, hr⟩

/-- R81, R83: no round index that fits reaches the bits that the mask of class R keeps. -/
theorem encode_mask_round (op : Byte) (r : Nat) (h : r ≤ 15) :
    (op.setWidth 32 ||| (BitVec.ofNat 32 r <<< 8) ||| ((0 : BitVec 1).setWidth 32 <<< 12)) &&& (0xFFFFF0FF : Word) =
      op.setWidth 32 := by
  have key : ∀ r : Fin 16, ∀ op : Fin 256,
      ((BitVec.ofNat 8 op.val).setWidth 32 ||| (BitVec.ofNat 32 r.val <<< 8) ||| ((0 : BitVec 1).setWidth 32 <<< 12)) &&&
        (0xFFFFF0FF : Word) = (BitVec.ofNat 8 op.val).setWidth 32 := by
    decide +kernel
  simpa using key ⟨r, by omega⟩ op.toFin

theorem Laws.TableRow.nop : Laws.TableRow.Statement .nop :=
  Laws.TableRow.of_index _ 0 (by decide) (fun _ => by decide) ⟨rfl, rfl, rfl⟩

theorem Laws.TableRow.clear : Laws.TableRow.Statement .clear :=
  Laws.TableRow.of_index _ 1 (by decide) (fun _ => by decide) ⟨rfl, rfl, rfl⟩

theorem Laws.TableRow.keyexp (k : KeySel) : Laws.TableRow.Statement (.keyexp k) :=
  Laws.TableRow.of_index _ 2 (by decide) (fun _ => by cases k <;> decide) ⟨rfl, rfl, rfl⟩

theorem Laws.TableRow.subb : Laws.TableRow.Statement .subb :=
  Laws.TableRow.of_index _ 3 (by decide) (fun _ => by decide) ⟨rfl, rfl, rfl⟩

theorem Laws.TableRow.isubb : Laws.TableRow.Statement .isubb :=
  Laws.TableRow.of_index _ 4 (by decide) (fun _ => by decide) ⟨rfl, rfl, rfl⟩

theorem Laws.TableRow.shr : Laws.TableRow.Statement .shr :=
  Laws.TableRow.of_index _ 5 (by decide) (fun _ => by decide) ⟨rfl, rfl, rfl⟩

theorem Laws.TableRow.ishr : Laws.TableRow.Statement .ishr :=
  Laws.TableRow.of_index _ 6 (by decide) (fun _ => by decide) ⟨rfl, rfl, rfl⟩

theorem Laws.TableRow.mixc : Laws.TableRow.Statement .mixc :=
  Laws.TableRow.of_index _ 7 (by decide) (fun _ => by decide) ⟨rfl, rfl, rfl⟩

theorem Laws.TableRow.imixc : Laws.TableRow.Statement .imixc :=
  Laws.TableRow.of_index _ 8 (by decide) (fun _ => by decide) ⟨rfl, rfl, rfl⟩

theorem Laws.TableRow.addrk (r : Nat) : Laws.TableRow.Statement (.addrk r) :=
  Laws.TableRow.of_index _ 9 (by decide) (fun h => encode_mask_round _ r (of_decide_eq_true h)) ⟨rfl, rfl, rfl⟩

theorem Laws.TableRow.addrkt (r : Nat) : Laws.TableRow.Statement (.addrkt r) :=
  Laws.TableRow.of_index _ 10 (by decide) (fun h => encode_mask_round _ r (of_decide_eq_true h)) ⟨rfl, rfl, rfl⟩

theorem Laws.TableRow.eround (r : Nat) : Laws.TableRow.Statement (.eround r) :=
  Laws.TableRow.of_index _ 11 (by decide) (fun h => encode_mask_round _ r (of_decide_eq_true h)) ⟨rfl, rfl, rfl⟩

theorem Laws.TableRow.efinal (r : Nat) : Laws.TableRow.Statement (.efinal r) :=
  Laws.TableRow.of_index _ 12 (by decide) (fun h => encode_mask_round _ r (of_decide_eq_true h)) ⟨rfl, rfl, rfl⟩

theorem Laws.TableRow.dround (r : Nat) : Laws.TableRow.Statement (.dround r) :=
  Laws.TableRow.of_index _ 13 (by decide) (fun h => encode_mask_round _ r (of_decide_eq_true h)) ⟨rfl, rfl, rfl⟩

theorem Laws.TableRow.dinit (r : Nat) : Laws.TableRow.Statement (.dinit r) :=
  Laws.TableRow.of_index _ 14 (by decide) (fun h => encode_mask_round _ r (of_decide_eq_true h)) ⟨rfl, rfl, rfl⟩

theorem Laws.TableRow.aesEnc (k : KeySel) : Laws.TableRow.Statement (.aesEnc k) :=
  Laws.TableRow.of_index _ 15 (by decide) (fun _ => by cases k <;> decide) ⟨rfl, rfl, rfl⟩

theorem Laws.TableRow.aesDec (k : KeySel) : Laws.TableRow.Statement (.aesDec k) :=
  Laws.TableRow.of_index _ 16 (by decide) (fun _ => by cases k <;> decide) ⟨rfl, rfl, rfl⟩

theorem Laws.TableRow.kiasuEnc (k : KeySel) : Laws.TableRow.Statement (.kiasuEnc k) :=
  Laws.TableRow.of_index _ 17 (by decide) (fun _ => by cases k <;> decide) ⟨rfl, rfl, rfl⟩

theorem Laws.TableRow.kiasuDec (k : KeySel) : Laws.TableRow.Statement (.kiasuDec k) :=
  Laws.TableRow.of_index _ 18 (by decide) (fun _ => by cases k <;> decide) ⟨rfl, rfl, rfl⟩

theorem Laws.TableRow.xexEnc : Laws.TableRow.Statement .xexEnc :=
  Laws.TableRow.of_index _ 19 (by decide) (fun _ => by decide) ⟨rfl, rfl, rfl⟩

theorem Laws.TableRow.xexDec : Laws.TableRow.Statement .xexDec :=
  Laws.TableRow.of_index _ 20 (by decide) (fun _ => by decide) ⟨rfl, rfl, rfl⟩

theorem Laws.TableRow.parse : Laws.TableRow.Statement .parse :=
  Laws.TableRow.of_index _ 21 (by decide) (fun _ => by decide) ⟨rfl, rfl, rfl⟩

theorem Laws.TableRow.format : Laws.TableRow.Statement .format :=
  Laws.TableRow.of_index _ 22 (by decide) (fun _ => by decide) ⟨rfl, rfl, rfl⟩

theorem Laws.TableRow.hexenc : Laws.TableRow.Statement .hexenc :=
  Laws.TableRow.of_index _ 23 (by decide) (fun _ => by decide) ⟨rfl, rfl, rfl⟩

theorem Laws.TableRow.hexdec : Laws.TableRow.Statement .hexdec :=
  Laws.TableRow.of_index _ 24 (by decide) (fun _ => by decide) ⟨rfl, rfl, rfl⟩

theorem Laws.TableRow.detEnc : Laws.TableRow.Statement .detEnc :=
  Laws.TableRow.of_index _ 25 (by decide) (fun _ => by decide) ⟨rfl, rfl, rfl⟩

theorem Laws.TableRow.detDec : Laws.TableRow.Statement .detDec :=
  Laws.TableRow.of_index _ 26 (by decide) (fun _ => by decide) ⟨rfl, rfl, rfl⟩

theorem Laws.TableRow.ndEnc : Laws.TableRow.Statement .ndEnc :=
  Laws.TableRow.of_index _ 27 (by decide) (fun _ => by decide) ⟨rfl, rfl, rfl⟩

theorem Laws.TableRow.ndDec : Laws.TableRow.Statement .ndDec :=
  Laws.TableRow.of_index _ 28 (by decide) (fun _ => by decide) ⟨rfl, rfl, rfl⟩

theorem Laws.TableRow.ndxEnc : Laws.TableRow.Statement .ndxEnc :=
  Laws.TableRow.of_index _ 29 (by decide) (fun _ => by decide) ⟨rfl, rfl, rfl⟩

theorem Laws.TableRow.ndxDec : Laws.TableRow.Statement .ndxDec :=
  Laws.TableRow.of_index _ 30 (by decide) (fun _ => by decide) ⟨rfl, rfl, rfl⟩

end Sys2Proof
end

