-- ==== Sys2Proof/Tests/Slice0.lean ====
section
/-! SUPPORT. The model's own tests. Expected values are those of spec/95_test_vectors.md, of the examples in the rules, and of
the opcode map; none is taken from the model. After them, one witness for each obligation that has hypotheses: a state and
operands that meet all of them together. -/

namespace Sys2Proof.Tests

set_option Elab.async false

open Sys2Proof Sys2Proof.Machine

/-! ### Helpers -/

/-- R11: a block from its 32 hex digits. -/
abbrev hexBlock (v : BitVec 128) : Block := Bytes.ofHex 16 v

/-- One step that runs the command word `w` on `s`; does the next state satisfy `f`? -/
def runs (s : State) (w : Nat) (f : State → Bool) : Bool :=
  match step (s.withFetchWord 32 w) with
  | .next t => f t
  | .fault _ => false
  | .refused _ => false

/-- One step that takes the host action `a` on `s`; does the next state satisfy `f`? -/
def acts (s : State) (a : HostAction) (f : State → Bool) : Bool :=
  match step { s with host := [a] } with
  | .next t => f t
  | .fault _ => false
  | .refused _ => false

abbrev r0 : State := State.reset

/-- Spec 95 names K0, K1, K2, KC, seq and M0. -/
abbrev k0 : Block := hexBlock 0x0123456789abcdeffedcba9876543210
abbrev k1 : Block := hexBlock 0x1032547698badcfeefcdab8967452301
abbrev k2 : Block := hexBlock 0x2b7e151628aed2a6abf7158809cf4f3c
abbrev kc : Block := hexBlock 0x000102030405060708090a0b0c0d0e0f
abbrev m0 : Block := hexBlock 0x00000000000000000000ffff00000000
abbrev fips : Block := hexBlock 0x00112233445566778899aabbccddeeff

/-- Reset, with BLK loaded. -/
abbrev withBlk (b : Block) : State := { r0 with blk := b }

/-- Reset, with the schedule of K2 in RKS and BLK loaded (the state "K2" of section 2.4). -/
abbrev withK2 (b : Block) : State := { r0 with blk := b, rks := keyExpand k2, rkv := true }

/-- Reset, with KEYA and BLK loaded. -/
abbrev withKey (k b : Block) : State := { r0 with key := k.cat (zeros 16), blk := b }

/-- Reset, with a text in ABUF and ALEN. -/
abbrev withText (t : String) : State := r0.setText (ascii t)

/-! ### WellFormed -/

theorem test_wf_refuses_round_16 :
    (Instr.addrk 16).WellFormed = false ∧ (Instr.addrkt 16).WellFormed = false ∧ (Instr.eround 16).WellFormed = false ∧
      (Instr.efinal 16).WellFormed = false ∧ (Instr.dround 16).WellFormed = false ∧ (Instr.dinit 16).WellFormed = false := by
  decide

theorem test_wf_accepts_round_15 : (Instr.addrk 15).WellFormed = true ∧ (Instr.dinit 0).WellFormed = true := by decide

/-! ### Decode: a word of every row, from R81's layout `0000000000000000000 k rrrr oooooooo` and R84's opcodes -/

theorem test_decode_control :
    decode 0b00000000000000000000000000000000 = .ok .nop ∧ decode 0b00000000000000000000000000000001 = .ok .clear := by
  decide

theorem test_decode_keyexp :
    decode 0b00000000000000000000000000010000 = .ok (.keyexp .a) ∧
      decode 0b00000000000000000001000000010000 = .ok (.keyexp .b) := by
  decide

theorem test_decode_transforms :
    decode 0b00000000000000000000000000010001 = .ok .subb ∧ decode 0b00000000000000000000000000010010 = .ok .isubb ∧
      decode 0b00000000000000000000000000010011 = .ok .shr ∧ decode 0b00000000000000000000000000010100 = .ok .ishr ∧
      decode 0b00000000000000000000000000010101 = .ok .mixc ∧ decode 0b00000000000000000000000000010110 = .ok .imixc := by
  decide

theorem test_decode_round_key_commands :
    decode 0b00000000000000000000001100010111 = .ok (.addrk 3) ∧
      decode 0b00000000000000000000101000011000 = .ok (.addrkt 10) ∧
      decode 0b00000000000000000000100100011001 = .ok (.eround 9) ∧
      decode 0b00000000000000000000101000011010 = .ok (.efinal 10) ∧
      decode 0b00000000000000000000000100011011 = .ok (.dround 1) ∧
      decode 0b00000000000000000000111100011100 = .ok (.dinit 15) := by
  decide

theorem test_decode_block_commands :
    decode 0b00000000000000000000000000100000 = .ok (.aesEnc .a) ∧
      decode 0b00000000000000000001000000100001 = .ok (.aesDec .b) ∧
      decode 0b00000000000000000001000000100010 = .ok (.kiasuEnc .b) ∧
      decode 0b00000000000000000000000000100011 = .ok (.kiasuDec .a) ∧
      decode 0b00000000000000000000000000100100 = .ok .xexEnc ∧ decode 0b00000000000000000000000000100101 = .ok .xexDec := by
  decide

theorem test_decode_codec :
    decode 0b00000000000000000000000000110000 = .ok .parse ∧ decode 0b00000000000000000000000000110001 = .ok .format ∧
      decode 0b00000000000000000000000000110010 = .ok .hexenc ∧ decode 0b00000000000000000000000000110011 = .ok .hexdec := by
  decide

theorem test_decode_modes :
    decode 0b00000000000000000000000001000000 = .ok .detEnc ∧ decode 0b00000000000000000000000001000001 = .ok .detDec ∧
      decode 0b00000000000000000000000001000010 = .ok .ndEnc ∧ decode 0b00000000000000000000000001000011 = .ok .ndDec ∧
      decode 0b00000000000000000000000001000100 = .ok .ndxEnc ∧ decode 0b00000000000000000000000001000101 = .ok .ndxDec := by
  decide

/-- Section 2.9: illegal words, by reason. -/
theorem test_decode_rejects :
    decode 0x00000002 = .error .unassignedOpcode ∧ decode 0x000000FF = .error .unassignedOpcode ∧
      decode 0x80000040 = .error .reservedBits ∧ decode 0x00002000 = .error .reservedBits ∧
      decode 0x00000111 = .error .unusedRoundField ∧ decode 0x00000110 = .error .unusedRoundField ∧
      decode 0x00001011 = .error .unusedKeySelect ∧ decode 0x00001017 = .error .unusedKeySelect := by
  decide

theorem test_decodeTableWord : decodeTableWord 32 0x00000A17 = some (.addrk 10) ∧ decodeTableWord 32 0x1D = none := by
  decide

/-- R88's examples, and a case-insensitive mnemonic. -/
theorem test_assemble :
    assemble "ADDRK".toList "3".toList = some (.addrk 3) ∧ assemble "aes_dec".toList "B".toList = some (.aesDec .b) ∧
      assemble "KEYEXP".toList [] = some (.keyexp .a) ∧ assemble "EROUND".toList "15".toList = some (.eround 15) ∧
      assemble "EROUND".toList "16".toList = none ∧ assemble "SUBB".toList "1".toList = none := by
  decide +kernel

/-! ### Field and tables (section 2.1) -/

theorem test_gmul : gmul 0x57 0x83 = 0xc1 ∧ gmul 0x57 0x13 = 0xfe ∧ gmul 0xff 0xff = 0x13 ∧ gmul 0x0e 0x09 = 0x7e := by
  decide

theorem test_sbox : sbox 0x00 = 0x63 ∧ sbox 0x53 = 0xed ∧ sbox 0xff = 0x16 ∧ invSbox 0x00 = 0x52 ∧ invSbox 0xff = 0x7d := by
  decide

/-! ### Commands, one step each -/

/-- Section 2.8: STATUS = 0x15 becomes 0x10. -/
theorem test_nop : runs { r0 with err := .tweakMismatch, rkv := true } 0x00 (fun t => statusWord t == 0x10) = true := by
  decide +kernel

theorem test_clear :
    runs { r0 with key := k0.cat k1, keylen := 16, rkv := true, ovr := true } 0x01
      (fun t => t.key == zeros 32 && t.keylen == 0 && statusWord t == 0) = true := by
  decide +kernel

/-- Section 2.2: RK[1] and RK[10] of K2 from KEYB, and STATUS = 0x30. -/
theorem test_keyexp :
    runs { r0 with key := k0.cat k2 } 0x1010 (fun t => statusWord t == 0x30 &&
      roundKeyOf t.rks 1 == hexBlock 0xa0fafe1788542cb123a339392a6c7605 &&
      roundKeyOf t.rks 10 == hexBlock 0xd014f9a8c9ee2589e13f0cc8b6630ca6) = true := by
  decide +kernel

theorem test_subb : runs (withBlk kc) 0x11 (fun t => t.blk == hexBlock 0x637c777bf26b6fc53001672bfed7ab76) = true := by
  decide +kernel

theorem test_isubb : runs (withBlk kc) 0x12 (fun t => t.blk == hexBlock 0x52096ad53036a538bf40a39e81f3d7fb) = true := by
  decide +kernel

theorem test_shr : runs (withBlk kc) 0x13 (fun t => t.blk == hexBlock 0x00050a0f04090e03080d02070c01060b) = true := by
  decide +kernel

theorem test_ishr : runs (withBlk kc) 0x14 (fun t => t.blk == hexBlock 0x000d0a0704010e0b0805020f0c090603) = true := by
  decide +kernel

theorem test_mixc :
    runs (withBlk (hexBlock 0xdb135345f20a225c01010101c6c6c6c6)) 0x15
      (fun t => t.blk == hexBlock 0x8e4da1bc9fdc589d01010101c6c6c6c6) = true := by
  decide +kernel

theorem test_imixc : runs (withBlk kc) 0x16 (fun t => t.blk == hexBlock 0x0a0f080d0e0b0c090207000506030401) = true := by
  decide +kernel

theorem test_addrk : runs (withK2 fips) 0x317 (fun t => t.blk == hexBlock 0x3d91654e0343984996bad4ffa1a766c4) = true := by
  decide +kernel

/-- Sections 2.4, 2.9: BadOperand before NoSchedule; NoSchedule; BLK unchanged. -/
theorem test_addrk_errors :
    runs (withBlk fips) 0xB17 (fun t => t.err == .badOperand && t.blk == fips) = true ∧
      runs (withBlk fips) 0x017 (fun t => t.err == .noSchedule && t.blk == fips) = true := by
  decide +kernel

theorem test_addrkt :
    runs { withK2 fips with twk := hexBlock 0x01020304050607080000000000000000 } 0x318
      (fun t => t.blk == hexBlock 0x3c93654e0047984993bcd4ffa6af66c4) = true := by
  decide +kernel

theorem test_eround : runs (withK2 kc) 0x119 (fun t => t.blk == hexBlock 0xca90a252a4391fe0937a64580df05759) = true := by
  decide +kernel

theorem test_efinal : runs (withK2 kc) 0xA1A (fun t => t.blk == hexBlock 0xb37f9ede3bef8ef2d1e87b0d481f638d) = true := by
  decide +kernel

theorem test_dround : runs (withK2 kc) 0x11B (fun t => t.blk == hexBlock 0x7babcd815576afc05ae45200655b2d62) = true := by
  decide +kernel

theorem test_dinit : runs (withK2 kc) 0xA1C (fun t => t.blk == hexBlock 0x6045a5e6802f6a33eb3c63b7c024320e) = true := by
  decide +kernel

/-- Section 2.5: FIPS-197 C.1, under KEYB. -/
theorem test_aes_enc :
    runs { r0 with key := (zeros 16).cat kc, blk := fips } 0x1020
      (fun t => t.blk == hexBlock 0x69c4e0d86a7b0430d8cdb78070b4c55a) = true := by
  decide +kernel

theorem test_aes_dec :
    runs (withKey kc (hexBlock 0x69c4e0d86a7b0430d8cdb78070b4c55a)) 0x021 (fun t => t.blk == fips) = true := by
  decide +kernel

theorem test_kiasu_enc :
    runs { withKey kc kc with twk := hexBlock 0x00010203040506070000000000000000 } 0x022
      (fun t => t.blk == hexBlock 0xbf552f0d0da0e2b61088a85bb5f5bcaa) = true := by
  decide +kernel

theorem test_kiasu_dec :
    runs { withKey kc (hexBlock 0xbf552f0d0da0e2b61088a85bb5f5bcaa) with
      twk := hexBlock 0x00010203040506070000000000000000 } 0x023 (fun t => t.blk == kc) = true := by
  decide +kernel

theorem test_xex_enc :
    runs { r0 with key := k0.cat k1, twk := hexBlock 0x21bd1834bc088cd2b4ecbe30b70898d7, blk := m0 } 0x024
      (fun t => t.blk == hexBlock 0x82db0d4125fdace61db35b8339f20ee5) = true := by
  decide +kernel

theorem test_xex_dec :
    runs { withBlk (hexBlock 0x82db0d4125fdace61db35b8339f20ee5) with
      key := k0.cat k1, twk := hexBlock 0x21bd1834bc088cd2b4ecbe30b70898d7 } 0x025 (fun t => t.blk == m0) = true := by
  decide +kernel

/-- Section 2.6. -/
theorem test_parse :
    runs (withText "2001:DB8:0:0:1:0:0:1") 0x30
      (fun t => t.blk == hexBlock 0x20010db8000000000001000000000001 && t.err == .ok) = true := by
  decide +kernel

/-- Section 2.6: some of the rejected texts, and a bracketed one that is accepted. -/
theorem test_parse_rejects :
    (["", "1.2.3.256", "01.2.3.4", "2001::db8::1", "1:::2", "1:2:3:4:5:6:7::8", "::ffff:1.2.3.4", "[1.2.3.4]", "::1]",
      "12345::", ":1:2:3:4:5:6:7:8"].all fun t => Sys2Proof.parse (ascii t) == none) = true ∧
      Sys2Proof.parse (ascii "[::1]") = some (hexBlock 0x00000000000000000000000000000001) := by
  decide +kernel

/-- Section 2.6: a tie goes to the leftmost run; a single zero group is not compressed; the mapped form is dotted. -/
theorem test_format :
    Sys2Proof.format (hexBlock 0x00010000000000020000000000030004) = ascii "1::2:0:0:3:4" ∧
      Sys2Proof.format (hexBlock 0x00000002000300040005000600070008) = ascii "0:2:3:4:5:6:7:8" ∧
      Sys2Proof.format (hexBlock 0x00000000000000000000ffff00010002) = ascii "0.1.0.2" ∧
      Sys2Proof.format (zeros 16) = ascii "::" := by
  decide +kernel

theorem test_format_command :
    runs (withBlk m0) 0x31 (fun t => t.text == ascii "0.0.0.0" && t.alen == 7 && t.abuf.byteAt 7 == 0) = true := by
  decide +kernel

theorem test_hexenc : runs (r0.setData [0x00, 0x0f, 0xa0, 0xff]) 0x32 (fun t => t.text == ascii "000fa0ff") = true := by
  decide +kernel

/-- Section 2.6: both letter cases; an odd length is found before a bad character. -/
theorem test_hexdec :
    runs (withText "08E0c289") 0x33 (fun t => t.data == [0x08, 0xe0, 0xc2, 0x89] && t.dlen == 4) = true ∧
      runs (withText "0g") 0x33 (fun t => t.err == .invalidHex) = true ∧
      runs (withText "0g1") 0x33 (fun t => t.err == .invalidEncodedLength) = true := by
  decide +kernel

/-- Section 2.7. -/
theorem test_det_enc :
    runs { withText "0.0.0.0" with key := k0.cat (zeros 16), keylen := 16 } 0x40
      (fun t => t.text == ascii "bde9:6789:d353:824c:d7c6:f58a:6bd2:26eb" && t.alen == 39) = true := by
  decide +kernel

theorem test_det_dec :
    runs { withText "::" with keylen := 16 } 0x41
      (fun t => t.text == ascii "140f:f10:11b5:223d:7958:7717:ffd9:ec3a") = true := by
  decide +kernel

/-- Program P4, step 10: the RNG port answers 21bd1834bc088cd2, and TWK is not written. -/
theorem test_nd_enc_draws :
    runs { withText "192.0.2.1" with
      key := k0.cat (zeros 16), keylen := 16, rng := [0x21, 0xbd, 0x18, 0x34, 0xbc, 0x08, 0x8c, 0xd2] } 0x42
      (fun t => t.text == ascii "21bd1834bc088cd28ae7b31915f710163101e29cbe74f908" && t.dlen == 24 && t.rng == [] &&
        t.twk == zeros 16) = true := by
  decide +kernel

theorem test_nd_dec :
    runs { r0.setData (Bytes.ofHex 24 0x08e0c289bff23b7cb349aadfe3bcef56221c384c7c217b16).bytes with
      key := k0.cat (zeros 16), keylen := 16 } 0x43 (fun t => t.blk == m0 && t.text == ascii "0.0.0.0") = true := by
  decide +kernel

/-- Section 2.7: the last byte of the supplied tweak differs. -/
theorem test_nd_dec_mismatch :
    runs { r0.setData (Bytes.ofHex 24 0x08e0c289bff23b7cb349aadfe3bcef56221c384c7c217b16).bytes with
      key := k0.cat (zeros 16), keylen := 16, twklen := 8, twk := hexBlock 0x08e0c289bff23b7d0000000000000000 } 0x43
      (fun t => t.err == .tweakMismatch && t.alen == 0) = true := by
  decide +kernel

theorem test_ndx_enc :
    runs { withText "0.0.0.0" with
      key := k0.cat k1, keylen := 32, twklen := 16, twk := hexBlock 0x21bd1834bc088cd2b4ecbe30b70898d7 } 0x44
      (fun t => t.text == ascii "21bd1834bc088cd2b4ecbe30b70898d782db0d4125fdace61db35b8339f20ee5" && t.alen == 64) =
        true := by
  decide +kernel

theorem test_ndx_dec :
    runs { r0.setData (Bytes.ofHex 32 0x21bd1834bc088cd2b4ecbe30b70898d782db0d4125fdace61db35b8339f20ee5).bytes with
      key := k0.cat k1, keylen := 32 } 0x45 (fun t => t.blk == m0) = true := by
  decide +kernel

/-- Section 2.9: the order of the checks. -/
theorem test_mode_check_order :
    runs { r0 with keylen := 32, twklen := 5 } 0x42 (fun t => t.err == .invalidKey) = true ∧
      runs { r0 with keylen := 16, twklen := 3, dlen := 23 } 0x43 (fun t => t.err == .invalidTweak) = true ∧
      runs { r0 with keylen := 32, dlen := 24 } 0x45 (fun t => t.err == .invalidEncodedLength) = true := by
  decide +kernel

theorem test_illegal_word : runs { r0 with blk := kc } 0x111 (fun t => t.err == .illegalCommand && t.blk == kc) = true := by
  decide +kernel

/-! ### The bus (section 2.10) -/

theorem test_bus_errors :
    acts r0 (.access (.read 1 0x000)) (fun t => t.resp == .busError) = true ∧
      acts r0 (.access (.write 1 0x003 0x11)) (fun t => t.resp == .busError) = true ∧
      acts r0 (.access (.write 4 0x052 1)) (fun t => t.resp == .busError && t.blk == zeros 16) = true ∧
      acts r0 (.access (.read 2 0x050)) (fun t => t.resp == .busError) = true := by
  decide +kernel

theorem test_bus_keylen : acts r0 (.access (.write 4 0x008 0x12345610)) (fun t => t.keylen == 0x10) = true := by
  decide +kernel

theorem test_bus_reads :
    acts (withBlk fips) (.access (.read 4 0x05C)) (fun t => t.resp == .data 4 0xccddeeff) = true ∧
      acts (withBlk fips) (.access (.read 1 0x053)) (fun t => t.resp == .data 1 0x33) = true ∧
      acts r0 (.access (.read 4 0x3FC)) (fun t => t.resp == .data 4 0) = true := by
  decide +kernel

theorem test_bus_key_write :
    acts { r0 with rkv := true } (.access (.write 4 0x020 0x2B7E1516))
      (fun t => t.key.byteAt 1 == 0x7e && t.rkv == false) = true := by
  decide +kernel

/-- R306, R307: the same in the last slot of a command that is not CLEAR; the command still runs. -/
theorem test_busy_write_dropped_in_last_slot :
    acts { withBlk kc with inflight := some ⟨0x11, 0⟩ } (.access (.write 4 0x000 0x01))
      (fun t => statusWord t == 0x80 && t.blk == hexBlock 0x637c777bf26b6fc53001672bfed7ab76) = true := by
  decide +kernel

/-- R306, R307: a write during BUSY is dropped and sets OVR (STATUS bit 7). -/
theorem test_busy_write_dropped :
    acts { r0 with inflight := some ⟨0x11, 5⟩ } (.access (.write 4 0x008 16))
      (fun t => t.keylen == 0 && statusWord t == 0xC0) = true := by
  decide +kernel

/-! ### Witnesses: the hypotheses of the obligations are met together -/

theorem witness_DecodeEncodeRoundTrip : (Instr.addrk 15).WellFormed = true := by decide

theorem witness_DecodeAcceptsOnlyEncodings : decode 0x00000F19 = .ok (.eround 15) := by decide

/-- One word for each of the causes: the four bounded ranges at both ends, the open range at both ends, RSV, and each class. -/
theorem witness_IllegalWords :
    ((opField 0x02).toNat = 0x02 ∧ (opField 0x0F).toNat = 0x0F ∧ (opField 0x1D).toNat = 0x1D ∧ (opField 0x1F).toNat = 0x1F ∧
      (opField 0x26).toNat = 0x26 ∧ (opField 0x2F).toNat = 0x2F ∧ (opField 0x34).toNat = 0x34 ∧
      (opField 0x3F).toNat = 0x3F ∧ (opField 0x46).toNat = 0x46 ∧ (opField 0xFF).toNat = 0xFF) ∧
    reservedField 0x00002000 ≠ 0 ∧
    (opField 0x00000111 = Instr.subb.op ∧ Instr.subb.cls = .n ∧ roundField 0x00000111 ≠ 0) ∧
    (opField 0x00001011 = Instr.subb.op ∧ keySelField 0x00001011 ≠ 0) ∧
    (opField 0x00001017 = (Instr.addrk 0).op ∧ (Instr.addrk 0).cls = .r ∧ keySelField 0x00001017 ≠ 0) ∧
    (opField 0x00000110 = (Instr.keyexp .a).op ∧ (Instr.keyexp .a).cls = .k ∧ roundField 0x00000110 ≠ 0) := by
  decide

theorem witness_StepRunsIssuedCommand :
    (∃ (s : State) (v : Word) (rest : List HostAction), s.host = .access (.write 4 0 v) :: rest ∧ ReadyAtomic s ∧
      s.latency = [] ∧ decode v = .ok .subb) ∧
    (∃ (s : State) (v : Word) (rest : List HostAction), s.host = .access (.write 4 0 v) :: rest ∧ ReadyAtomic s ∧
      s.latency = [0, 7] ∧ decode v = .error .unassignedOpcode) :=
  ⟨⟨{ r0 with host := [.access (.write 4 0 0x11)] }, 0x11, [], rfl, ⟨rfl, .inl rfl⟩, rfl, by decide⟩,
   ⟨{ r0 with host := [.access (.write 4 0 0x02)], latency := [0, 7] }, 0x02, [], rfl, ⟨rfl, .inr ⟨[7], rfl⟩⟩, rfl,
    by decide⟩⟩

theorem witness_CmdWriteWithLatency :
    ∃ (s : State) (v : Word) (rest : List HostAction) (k : Nat) (ls : List Nat),
      s.host = .access (.write 4 0 v) :: rest ∧ s.inflight = none ∧ s.latency = (k + 1) :: ls :=
  ⟨{ r0 with host := [.access (.write 4 0 0x11)], latency := [1] }, 0x11, [], 0, [], rfl, rfl, rfl⟩

theorem witness_BusyWindow :
    (∃ (s : State) (x : Word), s.inflight = some ⟨0x11, 0 + 1⟩ ∧ s.host = .access (.write 1 0x3FF x) :: []) ∧
    (∃ s : State, s.inflight = some ⟨0x11, 0 + 1⟩ ∧ s.host = .access (.read 4 0x008) :: [] ∧ inStatus 0x008 = false) ∧
    (∃ s : State, s.inflight = some ⟨0x11, 0 + 1⟩ ∧ s.host = .access (.read 4 0x004) :: [] ∧ inStatus 0x004 = true) ∧
    (∃ (s : State) (x : Word), s.inflight = some ⟨0x11, 0⟩ ∧ s.host = .access (.write 4 0x000 x) :: [] ∧
      decode 0x11 ≠ .ok .clear) ∧
    (∃ s : State, s.inflight = some ⟨0x11, 0⟩ ∧ s.host = .access (.read 1 0x007) :: [] ∧ inStatus 0x007 = true) :=
  ⟨⟨{ r0 with inflight := some ⟨0x11, 1⟩, host := [.access (.write 1 0x3FF 0)] }, 0, rfl, rfl⟩,
   ⟨{ r0 with inflight := some ⟨0x11, 1⟩, host := [.access (.read 4 0x008)] }, rfl, rfl, by decide⟩,
   ⟨{ r0 with inflight := some ⟨0x11, 1⟩, host := [.access (.read 4 0x004)] }, rfl, rfl, by decide⟩,
   ⟨{ r0 with inflight := some ⟨0x11, 0⟩, host := [.access (.write 4 0x000 0)] }, 0, rfl, rfl, by decide⟩,
   ⟨{ r0 with inflight := some ⟨0x11, 0⟩, host := [.access (.read 1 0x007)] }, rfl, rfl, by decide⟩⟩

theorem witness_StepStops :
    nextActionInWindow { r0 with host := [.access (.read 1 0x3FF)] } = true ∧
    (∃ (s : State) (a : Access) (rest : List HostAction), s.host = .access a :: rest ∧ 0x400 ≤ a.offset) :=
  ⟨by decide, { r0 with host := [.access (.read 4 0x400)] }, .read 4 0x400, [], rfl, by decide⟩

/-- OVR changes: set by a dropped write, cleared by CLEAR, cleared by reset. -/
theorem witness_OverrunIsSticky :
    acts { r0 with inflight := some ⟨0x11, 5⟩ } (.access (.write 4 0x008 16)) (fun t => t.ovr) = true ∧
    runs { r0 with ovr := true } 0x01 (fun t => !t.ovr) = true ∧
    acts { r0 with ovr := true } (.reset none) (fun t => !t.ovr) = true := by
  decide +kernel

theorem witness_PlatformReset :
    ∃ (s : State) (cut : Option Access) (rest : List HostAction), s.host = .reset cut :: rest ∧ s.inflight ≠ none :=
  ⟨{ r0 with host := [.reset (some (.read 4 0x050))], inflight := some ⟨0x42, 3⟩ }, _, _, rfl, by decide⟩

theorem witness_LatencyIsInvisible : State.reset.inflight = none := rfl

/-- A state with RKV = 1 that meets the invariant, and a step from it. -/
theorem witness_ScheduleValid : ∃ s t : State, ScheduleValid s ∧ s.rkv = true ∧ step s = .next t :=
  ⟨{ r0 with rks := keyExpand (State.keyHalf r0 .a), rkv := true }, _, fun _ => rfl, rfl, rfl⟩

theorem witness_IllegalAccess :
    ∃ a : Access, a.offset < 0x400 ∧ ¬ ((a.width = 1 ∧ 4 ≤ a.offset) ∨ (a.width = 4 ∧ a.offset % 4 = 0)) :=
  ⟨.read 4 0x3FE, by decide⟩

theorem witness_LegalRead :
    (∃ s : State, s.inflight = none ∧ 4 ≤ 0x3FF ∧ 0x3FF < 0x400 ∧ s.host = .access (.read 1 0x3FF) :: []) ∧
    (∃ s : State, s.inflight = none ∧ 0x3FC % 4 = 0 ∧ s.host = .access (.read 4 0x3FC) :: []) :=
  ⟨⟨{ r0 with host := [.access (.read 1 0x3FF)] }, rfl, by decide, by decide, rfl⟩,
   ⟨{ r0 with host := [.access (.read 4 0x3FC)] }, rfl, by decide, rfl⟩⟩

/-- The ends of the writable ranges, and their neighbours that are not. -/
theorem witness_hostWritable :
    hostWritable 0x00B = true ∧ hostWritable 0x017 = true ∧ hostWritable 0x020 = true ∧ hostWritable 0x0BF = true ∧
      hostWritable 0x00A = false ∧ hostWritable 0x018 = false ∧ hostWritable 0x01F = false ∧ hostWritable 0x0C0 = false ∧
      inStatus 0x003 = false ∧ inStatus 0x008 = false ∧ inStatus 0x004 = true ∧ inStatus 0x007 = true := by
  decide

/-- The steps of HostWriteStoresOneByte, at the ends of the range. -/
theorem witness_HostWriteStep :
    (∃ s : State, s.inflight = none ∧ s.host = .access (.write 1 0x004 0xFF) :: [] ∧ 4 ≤ 0x004 ∧ 0x004 < 0x400) ∧
    (∃ s : State, s.inflight = none ∧ s.host = .access (.write 4 0x3FC 0xFF) :: [] ∧ 0x3FC % 4 = 0 ∧ 0x3FC < 0x400) :=
  ⟨⟨{ r0 with host := [.access (.write 1 0x004 0xFF)] }, rfl, rfl, by decide⟩,
   ⟨{ r0 with host := [.access (.write 4 0x3FC 0xFF)] }, rfl, rfl, by decide⟩⟩

theorem witness_ReservedAndReadOnly :
    (reservedOffset 0x018 = true ∧ reservedOffset 0x01F = true ∧ reservedOffset 0x0C0 = true ∧ reservedOffset 0x0FF = true ∧
      reservedOffset 0x1B0 = true ∧ reservedOffset 0x3FF = true ∧ inSchedule 0x100 = true ∧ inSchedule 0x1AF = true) ∧
    (∃ s : State, s.inflight = none ∧ s.host = .access (.write 4 0x100 0xDEADBEEF) :: []) ∧
    (∃ s : State, s.inflight = none ∧ s.host = .access (.read 4 0x000) :: []) ∧
    ∃ s : State, s.inflight = none ∧ s.host = .access (.read 1 0x3FF) :: [] :=
  ⟨by decide, ⟨{ r0 with host := [.access (.write 4 0x100 0xDEADBEEF)] }, rfl, rfl⟩,
   ⟨{ r0 with host := [.access (.read 4 0x000)] }, rfl, rfl⟩, { r0 with host := [.access (.read 1 0x3FF)] }, rfl, rfl⟩

theorem witness_WordView : hostWritable (0x0BC + 3) = true ∧ 0x0BC % 4 = 0 := by decide

theorem witness_ParserAccepts : Sys2Proof.parse (ascii "::1") = some (hexBlock 1) := by decide +kernel

theorem witness_HexdecUndoesHexenc : (r0.setData (zeros 32).bytes).dlen.toNat ≤ 32 := by decide +kernel

theorem witness_NopIllegal : opField 0x80000000 = 0x00 ∧ (0x80000000 : Word) ≠ 0 := by decide

/-- Round index at both ends of 0..10 and just above, with RKV = 1 and with RKV = 0. -/
theorem witness_RoundKeyCommands :
    (0 ≤ 10 ∧ 10 ≤ 10 ∧ 10 < 11 ∧ 10 < 15) ∧ ({ r0 with rkv := true } : State).rkv = true ∧ State.reset.rkv = false ∧
      Instr.dinit 11 ∈ [.addrk 11, .addrkt 11, .eround 11, .efinal 11, .dround 11, .dinit 11] := by
  decide

/-- Both clauses of ParseWritesBlk, the second by each of its causes. -/
theorem witness_ParseWritesBlk :
    ((withText "::1").alen.toNat ≤ 64 ∧
      Sys2Proof.parse ((withText "::1").abuf.bytes.take (withText "::1").alen.toNat) = some (hexBlock 1)) ∧
    ({ r0 with alen := 65 } : State).alen.toNat > 64 ∧
    Sys2Proof.parse (r0.abuf.bytes.take r0.alen.toNat) = none := by
  decide +kernel

/-- Each clause of HexCommandResults at a boundary. -/
theorem witness_HexCommands :
    (({ r0 with dlen := 32 } : State).dlen.toNat ≤ 32 ∧ ({ r0 with dlen := 33 } : State).dlen.toNat > 32) ∧
    ((withText "08").alen.toNat % 2 = 0 ∧ unhex ((withText "08").abuf.bytes.take (withText "08").alen.toNat) = some [0x08]) ∧
    (({ r0 with alen := 66 } : State).alen.toNat > 64 ∧ ({ r0 with alen := 63 } : State).alen.toNat % 2 = 1) ∧
    unhex ((withText "0g").abuf.bytes.take (withText "0g").alen.toNat) = none := by
  decide +kernel

theorem witness_DeterministicMode :
    ∃ (s : State) (b : Block), s.keylen = 16 ∧ s.alen.toNat ≤ 64 ∧
      Sys2Proof.parse (s.abuf.bytes.take s.alen.toNat) = some b ∧ Sys2Proof.parse s.text = some b :=
  ⟨{ withText "::1" with keylen := 16 }, hexBlock 1, by decide +kernel⟩

/-- The four clauses of TweakedEncryptResults, the drawn ones with an RNG that has an answer ready. -/
theorem witness_TweakedEncrypt :
    (∃ (s : State) (p : Block) (t : Bytes 8), s.alen.toNat ≤ 64 ∧ Sys2Proof.parse s.text = some p ∧ s.keylen = 16 ∧
      s.twklen = 8 ∧ t = s.twk.slice 0 8) ∧
    (∃ (s : State) (p : Block) (t : Bytes 8), s.alen.toNat ≤ 64 ∧ Sys2Proof.parse s.text = some p ∧ s.keylen = 16 ∧
      s.twklen = 0 ∧ t.bytes = drawBytes s 8) ∧
    (∃ (s : State) (p : Block) (t : Block), s.alen.toNat ≤ 64 ∧ Sys2Proof.parse s.text = some p ∧ s.keylen = 32 ∧
      s.twklen = 16 ∧ t = s.twk) ∧
    (∃ (s : State) (p : Block) (t : Block), s.alen.toNat ≤ 64 ∧ Sys2Proof.parse s.text = some p ∧ s.keylen = 32 ∧
      s.twklen = 0 ∧ t.bytes = drawBytes s 16) :=
  ⟨⟨{ withText "::1" with keylen := 16, twklen := 8 }, hexBlock 1, _, by decide +kernel, by decide +kernel, rfl, rfl, rfl⟩,
   ⟨{ withText "::1" with keylen := 16, rng := (zeros 8).bytes }, hexBlock 1, zeros 8, by decide +kernel, by decide +kernel,
    rfl, rfl, by decide +kernel⟩,
   ⟨{ withText "::1" with keylen := 32, twklen := 16 }, hexBlock 1, _, by decide +kernel, by decide +kernel, rfl, rfl, rfl⟩,
   ⟨{ withText "::1" with keylen := 32, rng := (zeros 16).bytes }, hexBlock 1, zeros 16, by decide +kernel,
    by decide +kernel, rfl, rfl, by decide +kernel⟩⟩

/-- The clauses of TweakedDecryptResults: no tweak supplied, and a matching one. -/
theorem witness_TweakedDecrypt :
    (∃ s : State, s.keylen = 16 ∧ s.dlen = 24 ∧ s.twklen = 0) ∧
    (∃ s : State, s.keylen = 16 ∧ s.dlen = 24 ∧ s.twklen = 8 ∧ s.twk.slice 0 8 = s.dbuf.slice 0 8) ∧
    (∃ s : State, s.keylen = 32 ∧ s.dlen = 32 ∧ s.twklen = 0) ∧
    (∃ s : State, s.keylen = 32 ∧ s.dlen = 32 ∧ s.twklen = 16 ∧ s.twk = s.dbuf.slice 0 16) :=
  ⟨⟨{ r0 with keylen := 16, dlen := 24 }, rfl, rfl, rfl⟩,
   ⟨{ r0 with keylen := 16, dlen := 24, twklen := 8 }, rfl, rfl, rfl, by decide +kernel⟩,
   ⟨{ r0 with keylen := 32, dlen := 32 }, rfl, rfl, rfl⟩,
   ⟨{ r0 with keylen := 32, dlen := 32, twklen := 16 }, rfl, rfl, rfl, by decide +kernel⟩⟩

/-- The clauses of ModeValidationOrder, one state each. -/
theorem witness_ModeValidation :
    (∃ s : State, s.keylen ≠ 16 ∧ s.keylen ≠ 32) ∧
    (∃ s : State, s.keylen = 16 ∧ s.twklen ≠ 0 ∧ s.twklen ≠ 8) ∧
    (∃ s : State, s.keylen = 32 ∧ s.twklen ≠ 0 ∧ s.twklen ≠ 16) ∧
    (∃ s : State, s.alen.toNat > 64 ∧ s.keylen = 16 ∧ s.twklen = 0) ∧
    (∃ s : State, Sys2Proof.parse (s.abuf.bytes.take s.alen.toNat) = none ∧ s.keylen = 32 ∧ s.twklen = 16) ∧
    (∃ s : State, s.keylen = 16 ∧ s.twklen = 8 ∧ s.dlen ≠ 24) ∧
    (∃ s : State, s.keylen = 32 ∧ s.twklen = 0 ∧ s.dlen ≠ 32) ∧
    (∃ s : State, s.keylen = 16 ∧ s.twklen = 8 ∧ s.dlen = 24 ∧ s.twk.slice 0 8 ≠ s.dbuf.slice 0 8) ∧
    (∃ s : State, s.keylen = 32 ∧ s.twklen = 16 ∧ s.dlen = 32 ∧ s.twk ≠ s.dbuf.slice 0 16) :=
  ⟨⟨r0, by decide⟩, ⟨{ r0 with keylen := 16, twklen := 9 }, by decide⟩, ⟨{ r0 with keylen := 32, twklen := 8 }, by decide⟩,
   ⟨{ r0 with keylen := 16, alen := 65 }, by decide⟩, ⟨{ r0 with keylen := 32, twklen := 16 }, by decide +kernel⟩,
   ⟨{ r0 with keylen := 16, twklen := 8, dlen := 25 }, by decide⟩, ⟨{ r0 with keylen := 32, dlen := 24 }, by decide⟩,
   ⟨{ r0 with keylen := 16, twklen := 8, dlen := 24, twk := k0 }, by decide +kernel⟩,
   ⟨{ r0 with keylen := 32, twklen := 16, dlen := 32, twk := k0 }, by decide +kernel⟩⟩

/-- A command that fails, for FailedCommandChangesOnlyErr and ErrorCausesPerCommand. -/
theorem witness_FailedCommand : ∃ t, exec .detEnc r0 = .next t ∧ t.err ≠ .ok :=
  ⟨{ r0 with err := .invalidKey }, rfl, by decide⟩

/-- A command that is not CLEAR, and an offset its frame covers. -/
theorem witness_CommandFrame :
    (∃ t, exec .subb r0 = .next t) ∧ Instr.subb ≠ .clear ∧ Instr.subb ≠ .ndEnc ∧ (∀ k, Instr.subb ≠ .keyexp k) ∧
      mayWrite .subb 0x04F = false ∧ mayWrite .subb 0x060 = false ∧ mayWrite .subb 0x050 = true ∧
      mayWrite .subb 0x05F = true :=
  ⟨⟨_, rfl⟩, by decide, by decide, fun k => by cases k <;> decide, by decide⟩

theorem witness_IgnoreSchedule : isMode .ndxDec = true ∧ isBlockCommand .xexEnc = true ∧ ∃ t, exec .xexEnc r0 = .next t :=
  ⟨rfl, rfl, _, rfl⟩

theorem witness_TweakedRoundTrip :
    (∃ (s : State) (p : Block), s.alen.toNat ≤ 64 ∧ Sys2Proof.parse s.text = some p ∧ s.keylen = 16 ∧ s.twklen = 8) ∧
    (∃ (s : State) (p : Block), s.alen.toNat ≤ 64 ∧ Sys2Proof.parse s.text = some p ∧ s.keylen = 32 ∧ s.twklen = 0) :=
  ⟨⟨{ withText "::1" with keylen := 16, twklen := 8 }, hexBlock 1, by decide +kernel⟩,
   ⟨{ withText "::1" with keylen := 32 }, hexBlock 1, by decide +kernel⟩⟩

/-- The clauses of DrawIsUnconstrained: one byte ready, one not. -/
theorem witness_Draw :
    ∃ s : State, s.rng.length ≤ 2 ∧ 0 < s.rng.length ∧ s.rng.length + 0 < 2 := ⟨{ r0 with rng := [0x21] }, by decide⟩

/-- The clauses of FormatWrittenOut: a mapped block, a longest run with a tie on its right, and no run of two. -/
theorem witness_FormatWrittenOut :
    HasMappedPrefix m0 ∧
    (¬ HasMappedPrefix (hexBlock 0x00010000000000020000000000030004) ∧
      ∃ s len, 2 ≤ len ∧ ZeroRun (hexBlock 0x00010000000000020000000000030004) s len ∧
        ∀ s' len', ZeroRun (hexBlock 0x00010000000000020000000000030004) s' len' → len' < len ∨ (len' = len ∧ s ≤ s')) ∧
    (¬ HasMappedPrefix kc ∧ ∀ s, ¬ ZeroRun kc s 2) := by
  have run : ∀ (b : Block) (s len : Nat), ZeroRun b s len ↔ s + len ≤ 8 ∧ ∀ g < 8, s ≤ g → g < s + len → blockGroup b g = 0 :=
    fun b s len => ⟨fun h => ⟨h.1, fun g _ => h.2 g⟩, fun h => ⟨h.1, fun g h1 h2 => h.2 g (by have := h.1; omega) h1 h2⟩⟩
  have tie : ∀ s' : Fin 9, ∀ len' : Fin 9,
      (s'.val + len'.val ≤ 8 ∧ ∀ g < 8, s'.val ≤ g → g < s'.val + len'.val →
        blockGroup (hexBlock 0x00010000000000020000000000030004) g = 0) →
      len'.val < 2 ∨ (len'.val = 2 ∧ 1 ≤ s'.val) := by
    decide +kernel
  have none2 : ∀ s : Fin 7, ¬ ∀ g < 8, s.val ≤ g → g < s.val + 2 → blockGroup kc g = 0 := by decide +kernel
  refine ⟨by decide +kernel, ⟨by decide +kernel, 1, 2, by decide, (run _ _ _).mpr (by decide +kernel), ?_⟩, by decide +kernel, ?_⟩
  · intro s' len' h
    have h' := (run _ _ _).mp h
    exact tie ⟨s', by omega⟩ ⟨len', by omega⟩ h'
  · intro s h
    have h' := (run _ _ _).mp h
    exact none2 ⟨s, by omega⟩ h'.2

/-- A text of each of the three forms of ParseWrittenOut, with its block: the two short forms of `::1` and a dotted one. -/
theorem witness_ParseWrittenOut :
    IsV4Text (ascii "1.2.3.4") (hexBlock 0x00000000000000000000ffff01020304) ∧ IsV6Text (ascii "::1") (hexBlock 1) ∧
      ascii "[::1]" = [0x5B] ++ ascii "::1" ++ [0x5D] :=
  ⟨⟨by decide +kernel, by decide +kernel⟩,
   ⟨[], [ascii "1"], [], [1], .nil,
    .cons ⟨by decide, by decide, [1], .cons (.inl (by decide)) .nil, by decide⟩ .nil,
    .inr ⟨by decide, by decide, by decide +kernel⟩⟩,
   by decide⟩

/-- A successful ND_ENC and a successful ND_DEC. -/
theorem witness_NdEncodedLengths :
    runs { withText "::1" with keylen := 16, twklen := 8 } 0x42 (fun t => t.err == .ok) = true ∧
    runs { r0 with keylen := 16, dlen := 24 } 0x43 (fun t => t.err == .ok) = true := by
  decide +kernel

theorem witness_ZeroTweak : r0.twk8 = zeros 8 := by decide +kernel

end Sys2Proof.Tests
end

section
/-! PROOFS. What one command can do to the state, said once for every command (R34, R271, R272). -/

namespace Sys2Proof.Machine

/-- The next state `t` of the command `i` from `s`: an error and nothing else, or all of the outputs that the command has a
"w" for, and STATUS.ERR = OK. -/
inductive CommandEffect (i : Instr) (s : State) : State → Prop
  | failed (e : Err) (he : e ∈ errorsOf i) : CommandEffect i s (s.setErr e)
  | nop (hi : i = .nop) : CommandEffect i s (s.setErr .ok)
  | clear (hi : i = .clear) : CommandEffect i s (s.resetRegisters.setErr .ok)
  | schedule (k : KeySel) (hi : i = .keyexp k) :
      CommandEffect i s ((s.setSchedule k (keyExpand (s.keyHalf k))).setErr .ok)
  | block (hw : mayWrite i = inBlk) (b : Block) : CommandEffect i s ((s.setBlk b).setErr .ok)
  | text (hw : mayWrite i = inText) (x : Text) : CommandEffect i s ((s.setText x).setErr .ok)
  | data (hw : mayWrite i = inData) (d : List Byte) : CommandEffect i s ((s.setData d).setErr .ok)
  | result (hw : mayWrite i = fun o => inBlk o || inText o) (b : Block) : CommandEffect i s ((s.setResult b).setErr .ok)
  | encoded (hi : i = .ndEnc ∨ i = .ndxEnc) {n : Nat} (x : Bytes n) (c : Block) (r : List Byte) (f : Nat) :
      CommandEffect i s ((State.setEncoded { s with rng := r, free := f } x c).setErr .ok)

/-- The result of the command `i` from `s` is a next state with one of the command's effects. -/
def HasEffect (i : Instr) (s : State) (r : Result) : Prop := ∃ t, r = .next t ∧ CommandEffect i s t

theorem hasEffect_raise {i : Instr} {s : State} {e : Err} (he : e ∈ errorsOf i) : HasEffect i s (raise e s) :=
  ⟨_, rfl, .failed e he⟩

theorem hasEffect_ite {i : Instr} {s : State} {e : Err} (he : e ∈ errorsOf i) {c : Prop} [Decidable c] {r : Result}
    (hr : HasEffect i s r) : HasEffect i s (if c then raise e s else r) := by
  split
  · exact hasEffect_raise he
  · exact hr

theorem hasEffect_withRoundKey {i : Instr} {s : State} (hw : mayWrite i = inBlk)
    (he : errorsOf i = [.badOperand, .noSchedule]) (r : Nat) (f : Block → Block → Block) :
    HasEffect i s (withRoundKey r f s) := by
  rcases withRoundKey_cases r f s with ⟨-, h⟩ | ⟨-, -, h⟩ | ⟨-, -, h⟩
  · exact ⟨_, h, .failed _ (by simp [he])⟩
  · exact ⟨_, h, .failed _ (by simp [he])⟩
  · exact ⟨_, h, .block hw _⟩

/-- R109, R223, R224, R226, R234: a command on the address in ABUF fails with InvalidAddress or goes on with the block. -/
theorem hasEffect_addressInput {i : Instr} {s : State} (he : Err.invalidAddress ∈ errorsOf i) {f : Block → Result}
    (hf : ∀ p, HasEffect i s (f p)) :
    HasEffect i s (match addressInput s with | none => raise .invalidAddress s | some p => f p) := by
  cases addressInput s with
  | none => exact hasEffect_raise he
  | some p => exact hf p

/-- R221 items 1 and 2: a tweaked mode fails with InvalidKey or InvalidTweak or goes on. -/
theorem hasEffect_modeCheck {i : Instr} {s : State} (hk : Err.invalidKey ∈ errorsOf i) (ht : Err.invalidTweak ∈ errorsOf i)
    (k n : Nat) {r : Result} (hr : HasEffect i s r) :
    HasEffect i s (match modeCheck k n s with | some e => raise e s | none => r) := by
  rcases modeCheck_cases k n s with ⟨-, h⟩ | ⟨-, -, h⟩ | ⟨-, -, h⟩
  · rw [h]; exact hasEffect_raise hk
  · rw [h]; exact hasEffect_raise ht
  · rw [h]; exact hr

/-- R225, R231: choosing the tweak changes nothing but what the RNG port holds. -/
theorem afterTweak_eq (s : State) (n : Nat) : ∃ r f, s.afterTweak n = { s with rng := r, free := f } := by
  unfold State.afterTweak
  split
  · exact ⟨s.rng, s.free, rfl⟩
  · exact ⟨_, _, rfl⟩

theorem hasEffect_encoded {i : Instr} {s : State} (hi : i = .ndEnc ∨ i = .ndxEnc) {n : Nat} (x : Bytes n) (c : Block) :
    HasEffect i s (complete ((s.afterTweak n).setEncoded x c)) := by
  obtain ⟨r, f, h⟩ := afterTweak_eq s n
  rw [h]
  exact ⟨_, rfl, .encoded hi x c r f⟩

/-- R34, R271, R272: every command answers a next state with one of its effects. -/
theorem exec_hasEffect (i : Instr) (s : State) : HasEffect i s (exec i s) := by
  cases i with
  | nop => exact ⟨_, rfl, .nop rfl⟩
  | clear => exact ⟨_, rfl, .clear rfl⟩
  | keyexp k => exact ⟨_, rfl, .schedule k rfl⟩
  | subb | isubb | shr | ishr | mixc | imixc => exact ⟨_, rfl, .block rfl _⟩
  | addrk r | addrkt r | eround r | efinal r | dround r | dinit r =>
    simp only [exec, execAddrk, execAddrkt, execEround, execEfinal, execDround, execDinit]
    refine hasEffect_withRoundKey ?_ ?_ r _ <;> rfl
  | aesEnc k | aesDec k | kiasuEnc k | kiasuDec k => exact ⟨_, rfl, .block rfl _⟩
  | xexEnc | xexDec => exact ⟨_, rfl, .block rfl _⟩
  | parse => exact hasEffect_addressInput (by decide) fun p => ⟨_, rfl, .block rfl p⟩
  | format => exact ⟨_, rfl, .text rfl _⟩
  | hexenc => exact hasEffect_ite (by decide) ⟨_, rfl, .text rfl _⟩
  | hexdec =>
    refine hasEffect_ite (by decide) ?_
    split
    · exact hasEffect_raise (by decide)
    · exact ⟨_, rfl, .data rfl _⟩
  | detEnc | detDec =>
    exact hasEffect_ite (by decide) (hasEffect_addressInput (by decide) fun p => ⟨_, rfl, .result rfl _⟩)
  | ndEnc =>
    exact hasEffect_modeCheck (by decide) (by decide) 16 8
      (hasEffect_addressInput (by decide) fun p => hasEffect_encoded (.inl rfl) _ _)
  | ndDec =>
    exact hasEffect_modeCheck (by decide) (by decide) 16 8
      (hasEffect_ite (by decide) (hasEffect_ite (by decide) ⟨_, rfl, .result rfl _⟩))
  | ndxEnc =>
    exact hasEffect_modeCheck (by decide) (by decide) 32 16
      (hasEffect_addressInput (by decide) fun p => hasEffect_encoded (.inr rfl) _ _)
  | ndxDec =>
    exact hasEffect_modeCheck (by decide) (by decide) 32 16
      (hasEffect_ite (by decide) (hasEffect_ite (by decide) ⟨_, rfl, .result rfl _⟩))

theorem effect_of_exec {i : Instr} {s t : State} (h : exec i s = .next t) : CommandEffect i s t := by
  obtain ⟨u, hu, he⟩ := exec_hasEffect i s
  rwa [← Host.Outcome.next.inj (hu.symm.trans h)]

/-! ### What the effects leave alone -/

/-- R23 to R26, R31: what every command but CLEAR leaves alone. -/
theorem CommandEffect.keeps_key {i : Instr} {s t : State} (h : CommandEffect i s t) (hc : i ≠ .clear) :
    t.key = s.key ∧ t.keylen = s.keylen ∧ t.twk = s.twk ∧ t.twklen = s.twklen ∧ t.ovr = s.ovr ∧
      t.inflight = s.inflight := by
  cases h with
  | clear hi => exact absurd hi hc
  | _ => exact ⟨rfl, rfl, rfl, rfl, rfl, rfl⟩

/-- R30, R31: what every command but CLEAR and KEYEXP leaves alone. -/
theorem CommandEffect.keeps_schedule {i : Instr} {s t : State} (h : CommandEffect i s t) (hc : i ≠ .clear)
    (hk : ∀ k, i ≠ .keyexp k) : t.rks = s.rks ∧ t.rkv = s.rkv ∧ t.rksel = s.rksel := by
  cases h with
  | clear hi => exact absurd hi hc
  | schedule k hi => exact absurd hi (hk k)
  | _ => exact ⟨rfl, rfl, rfl⟩

/-- No command touches what the host still has to do or what the bus shows. -/
theorem CommandEffect.keeps_host {i : Instr} {s t : State} (h : CommandEffect i s t) :
    t.host = s.host ∧ t.latency = s.latency ∧ t.resp = s.resp := by
  cases h <;> exact ⟨rfl, rfl, rfl⟩

/-- R225, R231: only ND_ENC and NDX_ENC draw. -/
theorem CommandEffect.keeps_rng {i : Instr} {s t : State} (h : CommandEffect i s t) (h1 : i ≠ .ndEnc)
    (h2 : i ≠ .ndxEnc) : t.rng = s.rng ∧ t.free = s.free := by
  cases h with
  | encoded hi => exact (hi.elim h1 h2).elim
  | _ => exact ⟨rfl, rfl⟩

/-- Settles O54: no effect but those of CLEAR and KEYEXP touches the key state. -/
theorem onlyClearAndKeyexpWriteKeyState : Obligations.OnlyClearAndKeyexpWriteKeyState := fun _ _ _ h hc =>
  ⟨(effect_of_exec h).keeps_key hc, (effect_of_exec h).keeps_schedule hc⟩

end Sys2Proof.Machine
end

section
/-! PROOFS. Which register an offset belongs to, and which bytes of the window an update of a register leaves alone (R20,
R63, R65). -/

namespace Sys2Proof.Machine

/-! ### The register of an offset -/

/-- An offset is in the row of its register, or it is reserved or outside the window. -/
theorem locate_row (o : Nat) :
    (∃ w ∈ windowMap, w.base ≤ o ∧ o < w.base + w.size ∧ locate o = (w.region, o - w.base)) ∨
    ((reservedOffset o = true ∨ windowSize ≤ o) ∧ locate o = (.reserved, 0)) := by
  rcases offset_cases o with ⟨w, hw, hlo, hhi⟩ | h
  · exact .inl ⟨w, hw, hlo, hhi, locate_of_mem hw hlo hhi⟩
  · exact .inr ⟨h, locate_reserved h⟩

theorem windowMap_region_inj : ∀ v ∈ windowMap, ∀ w ∈ windowMap, v.region = w.region → v = w := by decide

theorem windowMap_region_ne_reserved : ∀ w ∈ windowMap, w.region ≠ .reserved := by decide

/-- An offset of a register is in the register's row, and the byte's number counts from the row's base. -/
theorem row_of_locate {r : Region} (base size : Nat) (hw : ⟨r, base, size⟩ ∈ windowMap) {o i : Nat}
    (h : locate o = (r, i)) : base ≤ o ∧ o < base + size ∧ i = o - base := by
  rcases locate_row o with ⟨v, hv, hlo, hhi, hl⟩ | ⟨-, hl⟩ <;> obtain ⟨hr, hi⟩ := Prod.mk.inj (h.symm.trans hl)
  · obtain rfl : ⟨r, base, size⟩ = v := windowMap_region_inj _ hw v hv hr
    exact ⟨hlo, hhi, hi⟩
  · exact absurd hr (windowMap_region_ne_reserved _ hw)

theorem inStatus_of_locate {o i : Nat} (h : locate o = (.status, i)) : inStatus o = true := by
  have hrow := row_of_locate 0x004 4 (by decide) h
  simp only [inStatus, Bool.and_eq_true, decide_eq_true_eq]
  omega

theorem inBlk_of_locate {o i : Nat} (h : locate o = (.blk, i)) : inBlk o = true := by
  have hrow := row_of_locate 0x050 16 (by decide) h
  simp only [inBlk, Bool.and_eq_true, decide_eq_true_eq]
  omega

theorem inText_of_locate {o i : Nat} (h : locate o = (.abuf, i) ∨ locate o = (.alen, i)) : inText o = true := by
  simp only [inText, Bool.or_eq_true, Bool.and_eq_true, decide_eq_true_eq]
  rcases h with h | h
  · have hrow := row_of_locate 0x060 64 (by decide) h
    omega
  · have hrow := row_of_locate 0x010 4 (by decide) h
    omega

theorem inData_of_locate {o i : Nat} (h : locate o = (.dbuf, i) ∨ locate o = (.dlen, i)) : inData o = true := by
  simp only [inData, Bool.or_eq_true, Bool.and_eq_true, decide_eq_true_eq]
  rcases h with h | h
  · have hrow := row_of_locate 0x0A0 32 (by decide) h
    omega
  · have hrow := row_of_locate 0x014 4 (by decide) h
    omega

theorem inSchedule_of_locate {o i : Nat} (h : locate o = (.rks, i)) : inSchedule o = true := by
  have hrow := row_of_locate 0x100 176 (by decide) h
  simp only [inSchedule, Bool.and_eq_true, decide_eq_true_eq]
  omega

/-! ### The window after an update of an output register -/

theorem readByte_setErr (s : State) (e : Err) {o : Nat} (h : inStatus o = false) :
    readByte (s.setErr e) o = readByte s o := by
  unfold readByte
  rcases hl : locate o with ⟨r, i⟩
  cases r with
  | status => simp [inStatus_of_locate hl] at h
  | _ => rfl

theorem readByte_setBlk (s : State) (b : Block) {o : Nat} (h : inBlk o = false) :
    readByte (s.setBlk b) o = readByte s o := by
  unfold readByte
  rcases hl : locate o with ⟨r, i⟩
  cases r with
  | blk => simp [inBlk_of_locate hl] at h
  | _ => rfl

theorem readByte_setText (s : State) (t : Text) {o : Nat} (h : inText o = false) :
    readByte (s.setText t) o = readByte s o := by
  unfold readByte
  rcases hl : locate o with ⟨r, i⟩
  cases r with
  | abuf => simp [inText_of_locate (.inl hl)] at h
  | alen => simp [inText_of_locate (.inr hl)] at h
  | _ => rfl

theorem readByte_setData (s : State) (d : List Byte) {o : Nat} (h : inData o = false) :
    readByte (s.setData d) o = readByte s o := by
  unfold readByte
  rcases hl : locate o with ⟨r, i⟩
  cases r with
  | dbuf => simp [inData_of_locate (.inl hl)] at h
  | dlen => simp [inData_of_locate (.inr hl)] at h
  | _ => rfl

theorem readByte_setSchedule (s : State) (k : KeySel) (rk : Bytes 176) {o : Nat} (h : inSchedule o = false)
    (hs : inStatus o = false) : readByte (s.setSchedule k rk) o = readByte s o := by
  unfold readByte
  rcases hl : locate o with ⟨r, i⟩
  cases r with
  | rks => simp [inSchedule_of_locate hl] at h
  | status => simp [inStatus_of_locate hl] at hs
  | _ => rfl

/-- R34: a command's effect leaves every byte it has no "w" for, STATUS apart. -/
theorem CommandEffect.readByte_eq {i : Instr} {s t : State} (h : CommandEffect i s t) {o : Nat}
    (hm : mayWrite i o = false) (hs : inStatus o = false) : readByte t o = readByte s o := by
  cases h with
  | failed e he => exact readByte_setErr s e hs
  | nop hi => exact readByte_setErr s .ok hs
  | clear hi => subst hi; cases hm
  | schedule k hi =>
    subst hi
    rw [readByte_setErr _ _ hs, readByte_setSchedule _ _ _ hm hs]
  | block hw b =>
    rw [hw] at hm
    rw [readByte_setErr _ _ hs, readByte_setBlk _ _ hm]
  | text hw x =>
    rw [hw] at hm
    rw [readByte_setErr _ _ hs, readByte_setText _ _ hm]
  | data hw d =>
    rw [hw] at hm
    rw [readByte_setErr _ _ hs, readByte_setData _ _ hm]
  | result hw b =>
    rw [hw] at hm
    obtain ⟨hb, ht⟩ := Bool.or_eq_false_iff.mp hm
    rw [readByte_setErr _ _ hs, State.setResult, readByte_setText _ _ ht, readByte_setBlk _ _ hb]
  | encoded hi x c r f =>
    have hw : mayWrite i o = (inBlk o || inText o || inData o) := by rcases hi with rfl | rfl <;> rfl
    obtain ⟨hbt, hd⟩ := Bool.or_eq_false_iff.mp (hw ▸ hm)
    obtain ⟨hb, ht⟩ := Bool.or_eq_false_iff.mp hbt
    rw [readByte_setErr _ _ hs, State.setEncoded, readByte_setText _ _ ht, readByte_setData _ _ hd,
      readByte_setBlk _ _ hb]
    exact readByte_congr s s.host s.latency r f s.resp o

/-- Settles O53: the effect of the command leaves the window's other bytes and the model's own fields. -/
theorem commandFrame : Obligations.CommandFrame := by
  intro i s t h
  have he := effect_of_exec h
  obtain ⟨hhost, hlat, hresp⟩ := he.keeps_host
  exact ⟨fun o _ hm hs => he.readByte_eq hm hs, hhost, hlat, hresp, he.keeps_rng⟩

/-! ### The window after a host write -/

theorem lengthByte_setLengthByte_of_ne (len : Byte) {i j : Nat} (h : j ≠ i) (v : Byte) :
    lengthByte (setLengthByte len i v) j = lengthByte len j := by
  unfold lengthByte setLengthByte
  split
  · rw [if_neg (by omega)]
  · rfl

theorem byteAt_setByte_of_ne {n : Nat} (b : Bytes n) {i j : Nat} (h : j ≠ i) (v : Byte) :
    (b.setByte i v).byteAt j = b.byteAt j := by
  by_cases hj : j < n
  · rw [Bytes.byteAt_setByte _ _ _ _ hj, if_neg h]
  · rw [Bytes.byteAt_ge _ (by omega), Bytes.byteAt_ge _ (by omega)]

theorem byteAt_setByte_same {n : Nat} (b : Bytes n) {i : Nat} (h : i < n) (v : Byte) :
    (b.setByte i v).byteAt i = v := by
  rw [Bytes.byteAt_setByte _ _ _ _ h, if_pos rfl]

theorem setByte_of_ge {n : Nat} (b : Bytes n) {i : Nat} (h : ¬ i < n) (v : Byte) : b.setByte i v = b :=
  Bytes.ext_byteAt fun j hj => byteAt_setByte_of_ne b (by omega) v

/-- R65: a one-byte write leaves every byte but its own; of STATUS it can change RKV, when the byte is one of KEY. -/
theorem readByte_writeByte_of_locate_ne (s : State) (v : Byte) {o o' : Nat} (h : locate o' ≠ locate o)
    (hs : inStatus o' = false ∨ ¬ (0x020 ≤ o ∧ o ≤ 0x03F)) : readByte (writeByte s o v) o' = readByte s o' := by
  unfold readByte writeByte
  rcases hl : locate o with ⟨r, i⟩
  rcases hl' : locate o' with ⟨r', i'⟩
  have hi : r' = r → i' ≠ i := fun hr hi => h (by rw [hl', hl, hr, hi])
  cases r with
  | cmd | status | rks | reserved => rfl
  | keylen => cases r' with
    | keylen => exact lengthByte_setLengthByte_of_ne _ (hi rfl) v
    | _ => rfl
  | twklen => cases r' with
    | twklen => exact lengthByte_setLengthByte_of_ne _ (hi rfl) v
    | _ => rfl
  | alen => cases r' with
    | alen => exact lengthByte_setLengthByte_of_ne _ (hi rfl) v
    | _ => rfl
  | dlen => cases r' with
    | dlen => exact lengthByte_setLengthByte_of_ne _ (hi rfl) v
    | _ => rfl
  | key => cases r' with
    | key => exact byteAt_setByte_of_ne _ (hi rfl) v
    | status =>
      have hrow := row_of_locate 0x020 32 (by decide) hl
      simp [inStatus_of_locate hl'] at hs
      omega
    | _ => rfl
  | twk => cases r' with
    | twk => exact byteAt_setByte_of_ne _ (hi rfl) v
    | _ => rfl
  | blk => cases r' with
    | blk => exact byteAt_setByte_of_ne _ (hi rfl) v
    | _ => rfl
  | abuf => cases r' with
    | abuf => exact byteAt_setByte_of_ne _ (hi rfl) v
    | _ => rfl
  | dbuf => cases r' with
    | dbuf => exact byteAt_setByte_of_ne _ (hi rfl) v
    | _ => rfl

theorem row_of_hostWritable {o : Nat} (h : hostWritable o = true) :
    ∃ w ∈ windowMap, w.base ≤ o ∧ o < w.base + w.size ∧ locate o = (w.region, o - w.base) := by
  rcases locate_row o with hrow | ⟨hres, -⟩
  · exact hrow
  · simp [hostWritable, reservedOffset, windowSize] at h hres
    omega

/-- A stored byte shares its home with no other offset. -/
theorem locate_inj_of_hostWritable {o o' : Nat} (h : hostWritable o = true) (hl : locate o' = locate o) : o' = o := by
  obtain ⟨w, hw, hlo, hhi, hlo'⟩ := row_of_hostWritable h
  have hrow := row_of_locate w.base w.size hw (hl.trans hlo')
  omega

/-- R20, R65: a byte of the window is stored when it is the last of a length register's word or one of a buffer's. -/
def storesAt : Region → Nat → Bool
  | .keylen, i | .twklen, i | .alen, i | .dlen, i => i == 3
  | .key, i => decide (i < 32)
  | .twk, i | .blk, i => decide (i < 16)
  | .abuf, i => decide (i < 64)
  | .dbuf, i => decide (i < 32)
  | .cmd, _ | .status, _ | .rks, _ | .reserved, _ => false

theorem hostWritable_eq_storesAt (o : Nat) : hostWritable o = storesAt (locate o).1 (locate o).2 := by
  rcases locate_row o with ⟨w, hw, hlo, hhi, hl⟩ | ⟨h, hl⟩ <;> rw [hl, Bool.eq_iff_iff]
  · simp only [windowMap, List.mem_cons, List.not_mem_nil, or_false] at hw
    rcases hw with rfl | rfl | rfl | rfl | rfl | rfl | rfl | rfl | rfl | rfl | rfl | rfl <;>
      simp [hostWritable, storesAt] at hlo hhi ⊢ <;> omega
  · simp [hostWritable, storesAt, reservedOffset, windowSize] at h ⊢
    omega

theorem readByte_writeByte_same (s : State) (v : Byte) {o : Nat} (h : hostWritable o = true) :
    readByte (writeByte s o v) o = v := by
  rw [hostWritable_eq_storesAt] at h
  unfold readByte writeByte
  generalize locate o = l at h ⊢
  obtain ⟨r, i⟩ := l
  cases r with
  | cmd | status | rks | reserved => cases h
  | keylen | twklen | alen | dlen =>
    obtain rfl : i = 3 := by simpa [storesAt] using h
    rfl
  | key | twk | blk | abuf | dbuf => exact byteAt_setByte_same _ (of_decide_eq_true h) v

theorem writeByte_of_not_hostWritable (s : State) (v : Byte) {o : Nat} (h : hostWritable o = false) :
    writeByte s o v = s := by
  rw [hostWritable_eq_storesAt] at h
  unfold writeByte
  rcases hl : locate o with ⟨r, i⟩
  rw [hl] at h
  cases r with
  | cmd | status | rks | reserved => rfl
  | keylen | twklen | alen | dlen =>
    have hi : i ≠ 3 := by simpa [storesAt] using h
    simp [setLengthByte, hi]
  | key =>
    have hrow := row_of_locate 0x020 32 (by decide) hl
    simp [storesAt] at h
    omega
  | twk | blk | abuf | dbuf => simp [setByte_of_ge _ (of_decide_eq_false h)]

/-! ### Host writes to KEY and to the length registers -/

theorem writeByte_key (s : State) {i : Nat} (h : i < 32) (v : Byte) :
    writeByte s (0x020 + i) v = { s with key := s.key.setByte i v, rkv := false } := by
  simp [writeByte, locate_key (o := 0x020 + i) (by omega) (by omega)]

/-- Settles O17: the one-byte write's meaning, four times over for the aligned word. -/
theorem keyWriteClearsRkv : Obligations.KeyWriteClearsRkv := by
  refine fun s i hi => ⟨writeByte_key s hi, fun hal v => ?_⟩
  rw [writeWord_eq, Nat.add_assoc, Nat.add_assoc, Nat.add_assoc, writeByte_key _ (by omega), writeByte_key _ (by omega),
    writeByte_key _ (by omega), writeByte_key _ (by omega)]
  rfl

/-- R65 item 3: of a word whose first three bytes are not stored, only bits 7:0 are written. -/
theorem writeWord_of_last_stored (s : State) (v : Word) {o : Nat} (h0 : hostWritable o = false)
    (h1 : hostWritable (o + 1) = false) (h2 : hostWritable (o + 2) = false) :
    writeWord s o v = writeByte s (o + 3) (v.extractLsb' 0 8) := by
  rw [writeWord_eq, writeByte_of_not_hostWritable _ _ h0, writeByte_of_not_hostWritable _ _ h1,
    writeByte_of_not_hostWritable _ _ h2]
  rfl

theorem wordOfBytes_zero_zero_zero (b : Byte) : wordOfBytes 0 0 0 b = b.setWidth 32 := by
  have h : wordOfBytes 0 0 0 b = 0#24 ++ b := by simp [wordOfBytes]
  rw [h, BitVec.setWidth_eq_append (by decide)]
  rfl

/-- Settles O20: of a length register's four bytes only the last is stored, and the others read 0. -/
theorem lengthRegistersKeepOneByte : Obligations.LengthRegistersKeepOneByte := by
  refine fun s v => ⟨?_, ?_, ?_, ?_, ?_, ?_, ?_, ?_⟩
  iterate 4 exact writeWord_of_last_stored s v rfl rfl rfl
  iterate 4 exact wordOfBytes_zero_zero_zero _

end Sys2Proof.Machine
end

section
/-! PROOFS. The step of a host access, with no command in flight and in the BUSY window (R64, R305, R306). -/

namespace Sys2Proof.Machine

theorem step_of_host_cons {s : State} {a : HostAction} {rest : List HostAction} (h : s.host = a :: rest) :
    step s = slot a { s with host := rest } := by
  rcases step_eq s with ⟨h', -⟩ | ⟨b, rest', h', hs⟩ <;> cases h'.symm.trans h
  exact hs

theorem step_of_ready {s : State} {a : HostAction} {rest : List HostAction} (hh : s.host = a :: rest)
    (hi : s.inflight = none) : step s = act a { s with host := rest } := by
  simp [step_of_host_cons hh, slot, State.busy, hi]

theorem step_of_inflight {s : State} {f : Inflight} {a : HostAction} {rest : List HostAction} (hh : s.host = a :: rest)
    (hi : s.inflight = some f) : step s = andThen (act a { s with host := rest }) tick := by
  simp [step_of_host_cons hh, slot, State.busy, hi]

/-- R64: the accesses of a legal width and alignment. -/
theorem legalAccess_iff (w o : Nat) : legalAccess w o = true ↔ (w = 1 ∧ 4 ≤ o) ∨ (w = 4 ∧ o % 4 = 0) := by
  simp [legalAccess]

/-- R64: a legal access that keeps the protocol is served. -/
theorem busAccess_of_legal {a : Access} {s : State} (ho : a.offset < windowSize)
    (hl : legalAccess a.width a.offset = true) (hb : s.inflight = none ∨ isStatusRead a = true) :
    busAccess a s = serve a s := by
  rcases busAccess_cases a s with ⟨h, -⟩ | ⟨-, h, -⟩ | ⟨-, -, h, h', -⟩ | ⟨-, -, -, h⟩
  · omega
  · simp [hl] at h
  · rcases hb with hb | hb
    · simp [State.busy, hb] at h
    · simp [hb] at h'
  · exact h

/-- R280, R306: a legal access during BUSY, but for a read of STATUS, breaks the protocol. -/
theorem busAccess_of_violation {a : Access} {s : State} {f : Inflight} (ho : a.offset < windowSize)
    (hl : legalAccess a.width a.offset = true) (hb : s.inflight = some f) (hs : isStatusRead a = false) :
    busAccess a s = .next (violate a s) := by
  simp [busAccess, hl, State.busy, hb, hs, Nat.not_le.mpr ho]

/-- R64, R305: the step of a legal access with no command in flight. -/
theorem step_of_ready_access {s : State} {a : Access} {rest : List HostAction} (hh : s.host = .access a :: rest)
    (hi : s.inflight = none) (ho : a.offset < windowSize) (hl : legalAccess a.width a.offset = true) :
    step s = serve a { s with host := rest } :=
  (step_of_ready hh hi).trans (busAccess_of_legal ho hl (.inl hi))

/-- R306: the end of a BUSY slot whose access left the command in flight alone. -/
theorem step_of_inflight_access {s t : State} {a : Access} {rest : List HostAction} {v : Word} {left : Nat}
    (hh : s.host = .access a :: rest) (hi : s.inflight = some ⟨v, left⟩)
    (hb : busAccess a { s with host := rest } = .next t) (ht : t.inflight = some ⟨v, left⟩) :
    step s = windowSlot v left t := by
  rw [step_of_inflight hh hi, act, hb, andThen_next, tick_eq_windowSlot t v left ht]

/-- R65: the step of a legal write outside CMD with no command in flight. -/
theorem step_of_ready_write {s : State} {w o : Nat} {v : Word} {rest : List HostAction}
    (hh : s.host = .access (.write w o v) :: rest) (hi : s.inflight = none) (h4 : 4 ≤ o) (ho : o < windowSize)
    (hl : legalAccess w o = true) :
    step s = .next { memWrite { s with host := rest } w o v with resp := .done } := by
  rw [step_of_ready_access hh hi ho hl, serve, if_neg (by omega)]

/-- Settles O16: the stored byte reads back, its offset has its home to itself, and the bus carries the write. -/
theorem hostWriteStoresOneByte : Obligations.HostWriteStoresOneByte := by
  refine ⟨fun s o v => ⟨fun h => ⟨readByte_writeByte_same s v h, fun o' hne hs => ?_⟩,
    writeByte_of_not_hostWritable s v⟩, fun s o v rest hi h4 ho => ⟨fun hh => ?_, fun hal hh => ?_⟩⟩
  · exact readByte_writeByte_of_locate_ne s v (mt (locate_inj_of_hostWritable h) hne) hs
  · rw [step_of_ready_write hh hi h4 ho ((legalAccess_iff 1 o).mpr (.inl ⟨rfl, h4⟩)), memWrite, if_pos rfl,
      BitVec.setWidth_eq_extractLsb' (by decide), writeByte_congr s o _ rest s.resp]
  · rw [step_of_ready_write hh hi h4 ho ((legalAccess_iff 4 o).mpr (.inr ⟨rfl, hal⟩)), memWrite, if_neg (by decide),
      writeWord_congr s o v rest s.resp]

/-- Settles O5: the served CMD write issues its word, and LATENCY 0 runs it in the same step. -/
theorem stepRunsIssuedCommand : Obligations.StepRunsIssuedCommand := by
  rintro s v rest hh ⟨hi, hlat⟩
  have hrun : step s = runCommand v { s with host := rest, latency := s.latency.tail, resp := .done } := by
    rw [step_of_ready_access hh hi (by decide : 0 < windowSize) rfl, serve, if_pos (by decide)]
    rcases hlat with h | ⟨ls, h⟩ <;> simp [issue, h]
  rw [hrun, runCommand]
  exact ⟨fun i h => by rw [h], fun e h => by rw [h]; rfl⟩

end Sys2Proof.Machine
end

section
/-! PROOFS. That STATUS.RKV = 1 keeps its meaning, from a command's effect up to the step (R23, R30, R31). -/

namespace Sys2Proof.Machine

theorem keyHalf_congr {s t : State} (hk : t.key = s.key) (k : KeySel) : t.keyHalf k = s.keyHalf k := by
  cases k <;> simp [State.keyHalf, State.keyA, State.keyB, hk]

/-- The invariant reads KEY, RKS, RKV and RKSEL only. -/
theorem ScheduleValid.congr {s t : State} (h : ScheduleValid s) (hk : t.key = s.key) (hr : t.rks = s.rks)
    (hv : t.rkv = s.rkv) (hs : t.rksel = s.rksel) : ScheduleValid t := by
  intro ht
  rw [hr, hs, keyHalf_congr hk]
  exact h (hv ▸ ht)

theorem scheduleValid_of_rkv_eq_false {s : State} (h : s.rkv = false) : ScheduleValid s := by simp [ScheduleValid, h]

theorem CommandEffect.scheduleValid {i : Instr} {s t : State} (he : CommandEffect i s t) (h : ScheduleValid s) :
    ScheduleValid t := by
  cases he with
  | clear => exact scheduleValid_of_rkv_eq_false rfl
  | schedule k => intro _; simp
  | _ => exact h.congr rfl rfl rfl rfl

theorem runCommand_scheduleValid {v : Word} {s t : State} (hr : runCommand v s = .next t) (h : ScheduleValid s) :
    ScheduleValid t := by
  rcases runCommand_cases v s with ⟨i, -, he⟩ | ⟨e, -, he⟩
  · exact (effect_of_exec (he.symm.trans hr)).scheduleValid h
  · cases he.symm.trans hr
    exact h.congr rfl rfl rfl rfl

theorem issue_scheduleValid {v : Word} {s t : State} (hr : issue v s = .next t) (h : ScheduleValid s) :
    ScheduleValid t := by
  rcases issue_cases v s with ⟨-, he⟩ | ⟨ls, -, he⟩ | ⟨k, ls, -, he⟩
  · exact runCommand_scheduleValid (he.symm.trans hr) h
  · exact runCommand_scheduleValid (he.symm.trans hr) (h.congr rfl rfl rfl rfl)
  · cases he.symm.trans hr
    exact h.congr rfl rfl rfl rfl

theorem tick_scheduleValid {s t : State} (hr : tick s = .next t) (h : ScheduleValid s) : ScheduleValid t := by
  rcases tick_cases s with ⟨-, he⟩ | ⟨v, -, he⟩ | ⟨v, k, -, he⟩
  · cases he.symm.trans hr
    exact h
  · exact runCommand_scheduleValid (he.symm.trans hr) (h.congr rfl rfl rfl rfl)
  · cases he.symm.trans hr
    exact h.congr rfl rfl rfl rfl

/-- R23: a host write that changes KEY clears RKV. -/
theorem writeByte_scheduleValid {s : State} (h : ScheduleValid s) (o : Nat) (v : Byte) :
    ScheduleValid (writeByte s o v) := by
  obtain ⟨hrks, -, hsel, -⟩ := writeByte_frame s o v
  rcases writeByte_key_or_rkv s o v with ⟨hkey, hrkv⟩ | hrkv
  · exact h.congr hkey hrks hrkv hsel
  · exact scheduleValid_of_rkv_eq_false hrkv

theorem memWrite_scheduleValid {s : State} (h : ScheduleValid s) (w o : Nat) (v : Word) :
    ScheduleValid (memWrite s w o v) := by
  unfold memWrite
  split
  · exact writeByte_scheduleValid h _ _
  · rw [writeWord_eq]
    exact writeByte_scheduleValid (writeByte_scheduleValid (writeByte_scheduleValid (writeByte_scheduleValid h _ _) _ _)
      _ _) _ _

theorem serve_scheduleValid {a : Access} {s t : State} (hr : serve a s = .next t) (h : ScheduleValid s) :
    ScheduleValid t := by
  cases a with
  | read w o =>
    cases hr
    exact h.congr rfl rfl rfl rfl
  | write w o v =>
    rw [serve] at hr
    split at hr
    · exact issue_scheduleValid hr (h.congr rfl rfl rfl rfl)
    · cases hr
      exact (memWrite_scheduleValid h w o v).congr rfl rfl rfl rfl

theorem violate_scheduleValid {s : State} (h : ScheduleValid s) (a : Access) : ScheduleValid (violate a s) := by
  cases a <;> exact h.congr rfl rfl rfl rfl

theorem busAccess_scheduleValid {a : Access} {s t : State} (hr : busAccess a s = .next t) (h : ScheduleValid s) :
    ScheduleValid t := by
  rcases busAccess_cases a s with ⟨-, he⟩ | ⟨-, -, he⟩ | ⟨-, -, -, -, he⟩ | ⟨-, -, -, he⟩
  · cases he.symm.trans hr
  · cases he.symm.trans hr
    exact h.congr rfl rfl rfl rfl
  · cases he.symm.trans hr
    exact violate_scheduleValid h a
  · exact serve_scheduleValid (he.symm.trans hr) h

theorem act_scheduleValid {a : HostAction} {s t : State} (hr : act a s = .next t) (h : ScheduleValid s) :
    ScheduleValid t := by
  cases a with
  | access b => exact busAccess_scheduleValid hr h
  | wait | idle =>
    cases hr
    exact h.congr rfl rfl rfl rfl
  | reset cut =>
    cases hr
    cases cut <;> exact scheduleValid_of_rkv_eq_false rfl

theorem slot_scheduleValid {a : HostAction} {s t : State} (hr : slot a s = .next t) (h : ScheduleValid s) :
    ScheduleValid t := by
  rcases slot_cases a s with ⟨-, he⟩ | ⟨-, he⟩
  · exact act_scheduleValid (he.symm.trans hr) h
  · obtain ⟨u, hu, ht⟩ := andThen_eq_next (he.symm.trans hr)
    exact tick_scheduleValid ht (act_scheduleValid hu h)

/-- Settles O12: the invariant of each part of the step, put together. -/
theorem scheduleValidIsKeptByEveryStep : Obligations.ScheduleValidIsKeptByEveryStep := by
  intro s t h hr
  rcases step_eq s with ⟨-, he⟩ | ⟨a, rest, -, he⟩
  · exact slot_scheduleValid (he.symm.trans hr) h
  · exact slot_scheduleValid (he.symm.trans hr) (h.congr rfl rfl rfl rfl)

/-- Settles O13: with RKV = 0 the invariant asks nothing. -/
theorem scheduleValidAtReset : Obligations.ScheduleValidAtReset :=
  ⟨scheduleValid_of_rkv_eq_false rfl, rfl⟩

end Sys2Proof.Machine
end

section
/-! PROOFS. Reset, CLEAR and the BUSY window (R36, R261, R280, R300, R306, R307). -/

namespace Sys2Proof.Machine

/-- R302: the step of a reset, whether or not a command is in flight: none is left to run on. -/
theorem step_of_reset {s : State} {cut : Option Access} {rest : List HostAction} (hh : s.host = .reset cut :: rest) :
    step s = .next (platformReset cut { s with host := rest }) := by
  rcases hi : s.inflight with _ | f
  · exact step_of_ready hh hi
  · rw [step_of_inflight hh hi]
    cases cut <;> rfl

theorem statusWord_reset : statusWord State.reset = 0 := by decide

/-- Settles O10: the reset state of the step, field by field. -/
theorem platformResetPutsResetState : Obligations.PlatformResetPutsResetState := by
  intro s cut rest hh
  refine ⟨_, step_of_reset hh, ?_⟩
  cases cut <;> exact ⟨rfl, rfl, rfl, rfl, rfl, rfl, rfl, rfl, rfl, rfl, rfl, statusWord_reset, rfl, rfl, rfl⟩

/-- Settles O37: the reset registers, field by field. -/
theorem clearGivesResetValues : Obligations.ClearGivesResetValues :=
  ⟨by decide, fun _ => ⟨_, rfl, rfl, rfl, rfl, rfl, rfl, rfl, rfl, rfl, rfl, rfl, statusWord_reset, rfl, rfl, rfl, rfl, rfl⟩⟩

/-- R307: at the end of a slot of the BUSY window OVR stands as it did, but for a CLEAR that takes effect. -/
theorem windowSlot_keeps_ovr {v : Word} (hv : decode v ≠ .ok .clear) (left : Nat) (t : State) :
    ∃ u, windowSlot v left t = .next u ∧ u.ovr = t.ovr := by
  cases left with
  | succ k => exact ⟨_, rfl, rfl⟩
  | zero =>
    rcases runCommand_cases v { t with inflight := none } with ⟨i, hd, h⟩ | ⟨e, -, h⟩
    · obtain ⟨u, hu⟩ := exec_next i { t with inflight := none }
      obtain ⟨-, -, -, -, hovr, -⟩ := (effect_of_exec hu).keeps_key fun hi => hv (hi ▸ hd)
      exact ⟨u, h.trans hu, hovr⟩
    · exact ⟨_, h, rfl⟩

/-- Settles O7: each access of the BUSY window leaves the command in flight, and then the window's slot ends. -/
theorem busyWindowKeepsHostOut : Obligations.BusyWindowKeepsHostOut := by
  intro s v left rest w o hi ho hl
  have hlegal := (legalAccess_iff w o).mpr hl
  refine ⟨fun x hh => ?_, fun hh hs => ?_, fun hh hs => ?_⟩
  · have hstep := step_of_inflight_access hh hi (busAccess_of_violation ho hlegal hi rfl) hi
    exact ⟨hstep, fun hv => hstep ▸ windowSlot_keeps_ovr hv left _⟩
  · exact ⟨_, step_of_inflight_access hh hi (busAccess_of_violation ho hlegal hi hs) hi⟩
  · have hstep := step_of_inflight_access hh hi (busAccess_of_legal ho hlegal (.inr hs)) hi
    have hbusy : s.busy = true := by simp [State.busy, hi]
    obtain ⟨-, -, -, hbit, -⟩ := statusByte_fields s
    refine ⟨?_, ?_, ?_, ?_⟩
    · rintro rfl
      exact hstep
    · rintro rfl
      obtain rfl : o = 4 := by simp [inStatus] at hs; omega
      exact hstep
    · exact hbit.trans hbusy
    · exact (memRead_status_busy s).trans hbusy

end Sys2Proof.Machine
end

section
/-! PROOFS. The bus port: what stops a step, bus errors, reads, the offsets that store nothing, the big-endian word view and
the RNG port (R62 to R66, R74, R279). -/

namespace Sys2Proof.Machine

/-! ### What stops a step (R62, R272, R275) -/

theorem busAccess_runs {a : Access} (s : State) (h : a.offset < windowSize) : Runs (busAccess a s) := by
  rcases busAccess_cases a s with ⟨ho, -⟩ | ⟨-, -, he⟩ | ⟨-, -, -, -, he⟩ | ⟨-, -, -, he⟩
  · omega
  · exact ⟨_, he⟩
  · exact ⟨_, he⟩
  · rw [he]
    exact serve_next a s

theorem slot_runs {a : HostAction} {s : State} (h : Runs (act a s)) : Runs (slot a s) := by
  rcases slot_cases a s with ⟨-, he⟩ | ⟨-, he⟩ <;> rw [he]
  · exact h
  · obtain ⟨t, ht⟩ := h
    rw [ht, andThen_next]
    exact tick_next t

/-- Of the host's actions only an access outside the window stops. -/
theorem act_runs {a : HostAction} (s : State) (h : ∀ b, a = .access b → b.offset < windowSize) : Runs (act a s) := by
  cases a with
  | access b => exact busAccess_runs s (h b rfl)
  | wait | idle | reset => exact ⟨_, rfl⟩

theorem offset_lt_of_nextActionInWindow {s : State} {a : Access} {rest : List HostAction}
    (h : nextActionInWindow s = true) (hh : s.host = .access a :: rest) : a.offset < windowSize := by
  simpa [nextActionInWindow, hh] using h

theorem step_of_outside_window {s : State} {a : Access} {rest : List HostAction} (hh : s.host = .access a :: rest)
    (h : windowSize ≤ a.offset) : step s = .fault (.outsideWindow a.offset) := by
  have hact : act (.access a) { s with host := rest } = .fault (.outsideWindow a.offset) := if_pos h
  rw [step_of_host_cons hh]
  rcases slot_cases (.access a) { s with host := rest } with ⟨-, he⟩ | ⟨-, he⟩ <;> rw [he, hact]
  rfl

/-- Settles O8: the action of the slot runs, and so does the LATENCY after it; the window's test is the one stop. -/
theorem stepStopsOnlyOutsideWindow : Obligations.StepStopsOnlyOutsideWindow := by
  refine fun s => ⟨fun h => ?_, fun a rest hh ho => step_of_outside_window hh ho⟩
  rcases step_eq s with ⟨-, he⟩ | ⟨a, rest, hh, he⟩ <;> rw [he] <;> refine slot_runs (act_runs _ fun b hb => ?_)
  · cases hb
  · exact offset_lt_of_nextActionInWindow h (hb ▸ hh)

/-! ### Bus errors and reads (R64, R65, R279) -/

/-- Settles O14: the test of width and alignment comes right after the window's. -/
theorem illegalAccessIsBusError : Obligations.IllegalAccessIsBusError := by
  intro s a ho hl
  have hlegal : legalAccess a.width a.offset = false := by rwa [← Bool.not_eq_true, legalAccess_iff]
  rcases busAccess_cases a s with ⟨h, -⟩ | ⟨-, -, he⟩ | ⟨-, h, -⟩ | ⟨-, h, -⟩
  · exact absurd ho (Nat.not_lt.mpr h)
  · exact he
  all_goals simp [hlegal] at h

/-- R65: the step of a legal read with no command in flight. -/
theorem step_of_ready_read {s : State} {w o : Nat} {rest : List HostAction} (hh : s.host = .access (.read w o) :: rest)
    (hi : s.inflight = none) (ho : o < windowSize) (hl : (w = 1 ∧ 4 ≤ o) ∨ (w = 4 ∧ o % 4 = 0)) :
    step s = .next { s with host := rest, resp := .data w (memRead s w o) } :=
  step_of_ready_access hh hi ho ((legalAccess_iff w o).mpr hl)

/-- Settles O15: a served read, of either width. -/
theorem legalReadHasNoSideEffect : Obligations.LegalReadHasNoSideEffect := fun _ _ _ hi ho =>
  ⟨fun h4 hh => step_of_ready_read hh hi ho (.inl ⟨rfl, h4⟩),
    fun hal hh => step_of_ready_read hh hi ho (.inr ⟨rfl, hal⟩)⟩

/-! ### Offsets that store nothing (R66) -/

/-- R66: the offsets at which a host write is taken and ignored. -/
def IgnoresWrites (o : Nat) : Prop := reservedOffset o = true ∨ inStatus o = true ∨ inSchedule o = true

theorem ignoresWrites_iff (o : Nat) :
    IgnoresWrites o ↔ (0x004 ≤ o ∧ o ≤ 0x007) ∨ (0x018 ≤ o ∧ o ≤ 0x01F) ∨ (0x0C0 ≤ o ∧ o ≤ 0x3FF) := by
  simp only [IgnoresWrites, reservedOffset, inStatus, inSchedule, Bool.or_eq_true, Bool.and_eq_true, decide_eq_true_eq]
  omega

theorem ignoresWrites_bounds {o : Nat} (h : IgnoresWrites o) : 4 ≤ o ∧ o < windowSize := by
  rw [ignoresWrites_iff] at h
  simp only [windowSize]
  omega

theorem hostWritable_of_ignoresWrites {o : Nat} (h : IgnoresWrites o) : hostWritable o = false := by
  rw [ignoresWrites_iff] at h
  simp [hostWritable]
  omega

/-- An aligned word lies in one of the map's gaps, or in none. -/
theorem ignoresWrites_add {o k : Nat} (h : IgnoresWrites o) (hal : o % 4 = 0) (hk : k < 4) : IgnoresWrites (o + k) := by
  rw [ignoresWrites_iff] at h ⊢
  omega

theorem writeByte_of_ignoresWrites (s : State) (v : Byte) {o : Nat} (h : IgnoresWrites o) : writeByte s o v = s :=
  writeByte_of_not_hostWritable s v (hostWritable_of_ignoresWrites h)

theorem memWrite_of_ignoresWrites (s : State) {w o : Nat} (v : Word) (h : IgnoresWrites o)
    (hl : w = 1 ∨ (w = 4 ∧ o % 4 = 0)) : memWrite s w o v = s := by
  rcases hl with rfl | ⟨rfl, hal⟩
  · exact writeByte_of_ignoresWrites s _ h
  · rw [memWrite, if_neg (by decide), writeWord_eq, writeByte_of_ignoresWrites _ _ h,
      writeByte_of_ignoresWrites _ _ (ignoresWrites_add h hal (by decide)),
      writeByte_of_ignoresWrites _ _ (ignoresWrites_add h hal (by decide)),
      writeByte_of_ignoresWrites _ _ (ignoresWrites_add h hal (by decide))]

theorem readByte_of_reserved_or_cmd (s : State) {o : Nat} (h : reservedOffset o = true ∨ o < 4) : readByte s o = 0 := by
  rcases h with h | h
  · simp [readByte, locate_reserved (.inl h)]
  · simp [readByte, locate_cmd h]

theorem reservedOffset_add {o k : Nat} (h : reservedOffset o = true) (hal : o % 4 = 0) (hk : k < 4) :
    reservedOffset (o + k) = true := by
  simp only [reservedOffset, Bool.or_eq_true, Bool.and_eq_true, decide_eq_true_eq] at h ⊢
  omega

theorem memRead_of_reserved_or_cmd (s : State) {w o : Nat} (h : reservedOffset o = true ∨ o = 0)
    (hl : w = 1 ∨ (w = 4 ∧ o % 4 = 0)) : memRead s w o = 0 := by
  have hbyte : ∀ k, k < 4 → k = 0 ∨ o % 4 = 0 → readByte s (o + k) = 0 := by
    rintro k hk hal
    refine readByte_of_reserved_or_cmd s ?_
    rcases h with h | rfl
    · rcases hal with rfl | hal
      · exact .inl h
      · exact .inl (reservedOffset_add h hal hk)
    · exact .inr (by omega)
  have hzero : readByte s o = 0 := hbyte 0 (by decide) (.inl rfl)
  rcases hl with rfl | ⟨rfl, hal⟩
  · simp [memRead, hzero]
  · simp [memRead, readWord, hzero, hbyte 1 (by decide) (.inr hal), hbyte 2 (by decide) (.inr hal),
      hbyte 3 (by decide) (.inr hal), wordOfBytes]

/-- Settles O18: the ignored writes and the reads of 0, byte by byte and through the step of a served access. -/
theorem reservedAndReadOnlyOffsets : Obligations.ReservedAndReadOnlyOffsets := by
  refine ⟨fun s o h => readByte_of_reserved_or_cmd s h, fun s o v h => writeByte_of_ignoresWrites s v h,
    fun s o w v rest h hl hi hh => ?_, fun s o w rest h hl hi hh => ?_⟩
  · obtain ⟨h4, ho⟩ := ignoresWrites_bounds h
    have hlegal : legalAccess w o = true := (legalAccess_iff w o).mpr (hl.imp_left fun hw => ⟨hw, h4⟩)
    rw [step_of_ready_write hh hi h4 ho hlegal, memWrite_of_ignoresWrites _ _ h hl]
  · have ho : o < windowSize := by
      rcases h with h | h | h | rfl
      · exact (ignoresWrites_bounds (.inl h)).2
      · exact (ignoresWrites_bounds (.inr (.inl h))).2
      · exact (ignoresWrites_bounds (.inr (.inr h))).2
      · decide
    exact ⟨_, step_of_ready_read hh hi ho hl, fun h0 => memRead_of_reserved_or_cmd s h0 (hl.imp_left And.left)⟩

/-! ### The word view (R63) -/

theorem wordByte_readWord (s : State) (o : Nat) {k : Nat} (hk : k < 4) :
    wordByte (readWord s o) k = readByte s (o + k) := by
  obtain ⟨h0, h1, h2, h3⟩ := wordByte_wordOfBytes (readByte s o) (readByte s (o + 1)) (readByte s (o + 2))
    (readByte s (o + 3))
  interval_cases k
  exacts [h0, h1, h2, h3]

theorem inStatus_of_hostWritable {o : Nat} (h : hostWritable o = true) : inStatus o = false := by
  simp [hostWritable, inStatus] at h ⊢
  omega

/-- R65: a stored byte after a write at any offset. -/
theorem readByte_writeByte (s : State) (v : Byte) (o : Nat) {o' : Nat} (h : hostWritable o' = true) :
    readByte (writeByte s o v) o' = if o' = o then v else readByte s o' := by
  split
  case isTrue he => exact he ▸ readByte_writeByte_same s v h
  case isFalse hne =>
    exact readByte_writeByte_of_locate_ne s v (fun hl => hne (locate_inj_of_hostWritable h hl.symm).symm)
      (.inl (inStatus_of_hostWritable h))

theorem readByte_writeWord (s : State) (v : Word) {o k : Nat} (hk : k < 4) (h : hostWritable (o + k) = true) :
    readByte (writeWord s o v) (o + k) = wordByte v k := by
  simp only [writeWord_eq, readByte_writeByte _ _ _ h]
  interval_cases k <;> simp

/-- R63: the big-endian value of four bytes. -/
theorem toNat_wordOfBytes (b0 b1 b2 b3 : Byte) :
    (wordOfBytes b0 b1 b2 b3).toNat = b0.toNat * 2 ^ 24 + b1.toNat * 2 ^ 16 + b2.toNat * 2 ^ 8 + b3.toNat := by
  have happend : ∀ {m : Nat} (x : BitVec m) (b : Byte), (x ++ b).toNat = x.toNat * 2 ^ 8 + b.toNat := by
    intro m x b
    rw [BitVec.toNat_append, ← Nat.shiftLeft_add_eq_or_of_lt b.isLt, Nat.shiftLeft_eq]
  simp only [wordOfBytes, happend]
  omega

/-- Settles O19: each byte of a word read or written, and the rule's four consequences. -/
theorem wordViewIsBigEndian : Obligations.WordViewIsBigEndian :=
  ⟨fun s o _ hk => wordByte_readWord s o hk, fun s _ _ v hk _ hw => readByte_writeWord s v hk hw, fun _ => rfl,
    statusByte_fields, fun _ => rfl, fun _ => toNat_wordOfBytes _ _ _ _⟩

/-! ### The RNG port (R74) -/

/-- R74: a draw that the port's next answers cover takes them and no free value. -/
theorem drawBytes_of_supplied (s : State) (d rest : List Byte) : drawBytes { s with rng := d ++ rest } d.length = d := by
  simp [drawBytes]

/-- Settles O50: the supplied bytes come first, and a free value stands for each one missing. -/
theorem drawIsUnconstrained : Obligations.DrawIsUnconstrained := by
  refine ⟨length_drawBytes, fun s d rest => ⟨drawBytes_of_supplied s d rest, ?_, ?_⟩, fun s n hn => ⟨fun i hi => ?_,
    fun j hj => ?_, ?_, rfl⟩⟩
  · simp
  · simp
  · rw [drawBytes, List.take_of_length_le hn, List.getElem?_append_left hi]
  · have hj' : j < n - s.rng.length := by omega
    simp [drawBytes, List.take_of_length_le hn, hj']
  · simp [hn]

end Sys2Proof.Machine
end

section
/-! PROOFS. The texts that the block writes: their parts, their shape, and the texts written out (R76, R100, R105, R106). -/

namespace Sys2Proof

open Sys2Proof.Machine

/-! ### Texts joined from parts -/

/-- A part of an address text: 1 to `m` characters, all of them with `P`. -/
def IsPart (P : Byte → Prop) (m : Nat) (p : Text) : Prop := 1 ≤ p.length ∧ p.length ≤ m ∧ ∀ c ∈ p, P c

theorem joinWith_cons_cons (sep : Byte) (p q : Text) (ps : List Text) :
    joinWith sep (p :: q :: ps) = p ++ sep :: joinWith sep (q :: ps) := rfl

/-- The characters of a joined text are those of its parts, and the separator if there are two. -/
theorem mem_joinWith {sep c : Byte} {parts : List Text} :
    c ∈ joinWith sep parts ↔ (∃ p ∈ parts, c ∈ p) ∨ (c = sep ∧ 2 ≤ parts.length) := by
  induction parts with
  | nil => simp [joinWith]
  | cons p ps ih =>
    cases ps with
    | nil => simp [joinWith]
    | cons q qs =>
      rw [joinWith_cons_cons, List.mem_append, List.mem_cons, ih, List.exists_mem_cons_iff _ p]
      by_cases hc : c = sep
      · simp [hc]
      · simp only [hc, false_and, or_false, false_or]

theorem length_joinWith (sep : Byte) (parts : List Text) :
    (joinWith sep parts).length = (parts.map List.length).sum + (parts.length - 1) := by
  induction parts with
  | nil => rfl
  | cons p ps ih =>
    cases ps with
    | nil => simp [joinWith]
    | cons q qs =>
      rw [joinWith_cons_cons, List.length_append, List.length_cons, ih]
      simp
      omega

theorem length_joinWith_bounds (sep : Byte) {P : Byte → Prop} {m : Nat} {parts : List Text}
    (h : ∀ p ∈ parts, IsPart P m p) :
    2 * parts.length - 1 ≤ (joinWith sep parts).length ∧
      (joinWith sep parts).length ≤ parts.length * m + (parts.length - 1) := by
  have hlo := List.card_nsmul_le_sum (parts.map List.length) 1 (by simpa using fun p hp => (h p hp).1)
  have hhi := List.sum_le_card_nsmul (parts.map List.length) m (by simpa using fun p hp => (h p hp).2.1)
  simp only [List.length_map, smul_eq_mul] at hlo hhi
  rw [length_joinWith]
  omega

theorem mem_joinWith_of_isPart {sep c : Byte} {P : Byte → Prop} {m : Nat} {parts : List Text}
    (h : ∀ p ∈ parts, IsPart P m p) (hc : c ∈ joinWith sep parts) : P c ∨ c = sep := by
  rcases mem_joinWith.mp hc with ⟨p, hp, hcp⟩ | ⟨hc, -⟩
  · exact .inl ((h p hp).2.2 c hcp)
  · exact .inr hc

/-! ### The numbers of a text (R105, R106) -/

theorem nib_mem_hexCharacters {x : Nat} (h : x < 16) : nib x ∈ hexCharacters :=
  List.mem_of_getElem? (getElem?_hexCharacters x h)

theorem isOutputChar_of_mem_hexCharacters : ∀ c ∈ hexCharacters, isOutputChar c = true := by decide

theorem dec_isPart (x : Byte) : IsPart (· ∈ hexCharacters) 3 (dec x) := by
  have hx := x.isLt
  unfold dec
  dsimp only
  (repeat' split) <;> simp [IsPart] <;> and_intros <;> exact nib_mem_hexCharacters (by omega)

theorem hex4_isPart {n : Nat} (h : n < 65536) : IsPart (· ∈ hexCharacters) 4 (hex4 n) := by
  unfold hex4
  (repeat' split) <;> simp [IsPart] <;> and_intros <;> exact nib_mem_hexCharacters (by omega)

theorem length_groupsOf (b : Block) : (groupsOf b).length = 8 := by simp [groupsOf]

theorem groupsOf_eq (b : Block) : groupsOf b = (List.range 8).map (blockGroup b) := by
  simp only [groupsOf, funext (groupOf_eq b)]

/-- R106: the groups of a block that stand on one side of its `::`, or all of them, are parts of 1 to 4 digits. -/
theorem isPart_of_mem_groups {b : Block} {g : List Nat} (hg : g ⊆ groupsOf b) :
    ∀ p ∈ g.map hex4, IsPart (· ∈ hexCharacters) 4 p := by
  simp only [List.forall_mem_map]
  intro n hn
  have hmem := hg hn
  rw [groupsOf_eq] at hmem
  obtain ⟨k, -, rfl⟩ := List.mem_map.mp hmem
  exact hex4_isPart (blockGroup_lt b k)

/-! ### The zero runs of a block (R106) -/

/-- R106: start and length of the run of zero groups that `::` may stand for. -/
def longestRun (b : Block) : Nat × Nat := longestZeroRun 0 (groupsOf b)

theorem zeroRun_iff (b : Block) (s len : Nat) :
    ZeroRun b s len ↔ s + len ≤ 8 ∧ ∀ k, k < len → (groupsOf b)[s + k]? = some 0 := by
  refine and_congr_right fun hle => ⟨fun h k hk => ?_, fun h g hs hg => ?_⟩
  · rw [groupsOf_get b _ (by omega), h _ (by omega) (by omega)]
  · have hget := h (g - s) (by omega)
    rwa [Nat.add_sub_cancel' hs, groupsOf_get b g (by omega), Option.some_inj] at hget

theorem longestRun_bound (b : Block) : (longestRun b).1 + (longestRun b).2 ≤ 8 := by
  have h := (longestZeroRun_bounds (groupsOf b) 0).2
  rwa [length_groupsOf, Nat.zero_add] at h

theorem zeroRun_longestRun (b : Block) : ZeroRun b (longestRun b).1 (longestRun b).2 := by
  have hzero := longestZeroRun_zero (groupsOf b) 0
  rw [Nat.sub_zero] at hzero
  exact (zeroRun_iff b _ _).mpr ⟨longestRun_bound b, hzero⟩

/-- R106: no zero run is longer than the longest, and none of its length is further left. -/
theorem le_longestRun_of_zeroRun {b : Block} {s len : Nat} (h : ZeroRun b s len) (hlen : 1 ≤ len) :
    len < (longestRun b).2 ∨ (len = (longestRun b).2 ∧ (longestRun b).1 ≤ s) := by
  have hmax := longestZeroRun_max (groupsOf b) 0 s len hlen ((zeroRun_iff b s len).mp h).2
  rwa [Nat.zero_add] at hmax

/-! ### The three forms of the text -/

theorem format_of_mapped {b : Block} (h : HasMappedPrefix b) : format b = format4 b := by
  simp [format, (isMapped_iff b).mpr h]

theorem format_of_short_run {b : Block} (h : ¬ HasMappedPrefix b) (hlen : (longestRun b).2 < 2) :
    format b = joinWith chColon ((groupsOf b).map hex4) := by
  rw [longestRun] at hlen
  simp [format, mt (isMapped_iff b).mp h, format6, hlen]

theorem format_of_long_run {b : Block} (h : ¬ HasMappedPrefix b) (hlen : 2 ≤ (longestRun b).2) :
    format b = joinWith chColon (((groupsOf b).take (longestRun b).1).map hex4) ++ [chColon, chColon] ++
      joinWith chColon (((groupsOf b).drop ((longestRun b).1 + (longestRun b).2)).map hex4) := by
  have hlen' : ¬ (longestZeroRun 0 (groupsOf b)).2 < 2 := Nat.not_lt.mpr hlen
  simp [format, mt (isMapped_iff b).mp h, format6, hlen', longestRun]

/-! ### The shape of the text (R76) -/

theorem format4_isPart (b : Block) :
    ∀ p ∈ [dec (b.byteAt 12), dec (b.byteAt 13), dec (b.byteAt 14), dec (b.byteAt 15)],
      IsPart (· ∈ hexCharacters) 3 p := by
  simp [dec_isPart]

theorem length_format4 (b : Block) : 7 ≤ (format4 b).length ∧ (format4 b).length ≤ 15 :=
  length_joinWith_bounds chDot (format4_isPart b)

theorem mem_format4 {b : Block} {c : Byte} (h : c ∈ format4 b) : c ∈ hexCharacters ∨ c = chDot :=
  mem_joinWith_of_isPart (format4_isPart b) h

/-- R106: IPv6 text has no dot, and has the lengths of its groups. -/
theorem format_shape_of_not_mapped {b : Block} (h : ¬ HasMappedPrefix b) :
    2 ≤ (format b).length ∧ (format b).length ≤ 39 ∧ ∀ c ∈ format b, c ∈ hexCharacters ∨ c = chColon := by
  rcases Nat.lt_or_ge (longestRun b).2 2 with hlen | hlen
  · have hparts := isPart_of_mem_groups (List.Subset.refl (groupsOf b))
    have hb := length_joinWith_bounds chColon hparts
    rw [List.length_map, length_groupsOf] at hb
    rw [format_of_short_run h hlen]
    exact ⟨by omega, hb.2, fun c hc => mem_joinWith_of_isPart hparts hc⟩
  · have hl := isPart_of_mem_groups (List.take_subset (longestRun b).1 (groupsOf b))
    have hr := isPart_of_mem_groups (List.drop_subset ((longestRun b).1 + (longestRun b).2) (groupsOf b))
    have hbl := (length_joinWith_bounds chColon hl).2
    have hbr := (length_joinWith_bounds chColon hr).2
    have hbound := longestRun_bound b
    rw [format_of_long_run h hlen]
    simp only [List.length_map, List.length_take, List.length_drop, length_groupsOf] at hbl hbr
    simp only [List.length_append, List.length_cons, List.length_nil]
    refine ⟨by omega, by omega, fun c hc => ?_⟩
    rcases List.mem_append.mp hc with hc | hc
    · rcases List.mem_append.mp hc with hc | hc
      · exact mem_joinWith_of_isPart hl hc
      · exact .inr (by simpa using hc)
    · exact mem_joinWith_of_isPart hr hc

/-- Settles O33: the lengths and characters of the dotted and of the IPv6 form. -/
theorem formatOutputShape : Obligations.FormatOutputShape := by
  intro b
  by_cases h : HasMappedPrefix b
  · have hlen := length_format4 b
    rw [format_of_mapped h]
    refine ⟨by omega, by omega, fun c hc => ?_, iff_of_true (mem_joinWith.mpr (.inr ⟨rfl, by simp⟩)) h⟩
    rcases mem_format4 hc with hc | rfl
    · exact isOutputChar_of_mem_hexCharacters c hc
    · rfl
  · obtain ⟨hlo, hhi, hchars⟩ := format_shape_of_not_mapped h
    refine ⟨hlo, hhi, fun c hc => ?_, iff_of_false (fun hdot => ?_) h⟩
    · rcases hchars c hc with hc | rfl
      · exact isOutputChar_of_mem_hexCharacters c hc
      · rfl
    · exact absurd (hchars chDot hdot) (by decide)

/-! ### The texts written out -/

theorem dottedText_eq_format4 (b : Block) : dottedText b = format4 b := by
  simp [dottedText, format4, joinWith_eq_intercalate, dec_eq_numeral, List.range_succ, chDot]

/-- R106: the groups from `lo` up to `hi` in lowercase hex. -/
theorem groupsText_eq_joinWith (b : Block) (lo : Nat) {hi : Nat} (h : hi ≤ 8) :
    groupsText b lo hi = joinWith chColon ((((groupsOf b).take hi).drop lo).map hex4) := by
  rw [joinWith_eq_intercalate, groupsText]
  congr 1
  apply List.ext_getElem
  · simp [length_groupsOf, h]
  · intro i h1 h2
    have hi' : lo + i < hi := by simp at h1; omega
    simp [groupsOf_eq, hex4_eq_numeral _ (blockGroup_lt b _)]

/-- Settles O59: the longest run, the leftmost of several, is the one that the codec finds. -/
theorem formatWrittenOut : Obligations.FormatWrittenOut := by
  refine fun b => ⟨fun h => ?_, fun h => ⟨fun s len hlen hrun hmax => ?_, fun hnone => ?_⟩⟩
  · rw [format_of_mapped h, dottedText_eq_format4]
  · have hge := le_longestRun_of_zeroRun hrun (by omega)
    have hle := hmax _ _ (zeroRun_longestRun b)
    have hlen' : len = (longestRun b).2 := by omega
    have hs : s = (longestRun b).1 := by omega
    obtain ⟨hbound, -⟩ := hrun
    rw [format_of_long_run h (by omega), ← hs, ← hlen', groupsText_eq_joinWith b 0 (by omega),
      groupsText_eq_joinWith b _ (le_refl 8), List.drop_zero, List.take_of_length_le (length_groupsOf b).le]
    rfl
  · have hlen : (longestRun b).2 < 2 := by
      by_contra hlen
      obtain ⟨hbound, hzero⟩ := zeroRun_longestRun b
      exact hnone (longestRun b).1 ⟨by omega, fun g hs hg => hzero g hs (by omega)⟩
    rw [format_of_short_run h hlen, groupsText_eq_joinWith b 0 (le_refl 8), List.drop_zero,
      List.take_of_length_le (length_groupsOf b).le]

end Sys2Proof
end

section
/-! PROOFS. IPv4 text: the texts that parse to an IPv4-mapped block (R103). -/

namespace Sys2Proof

open Sys2Proof.Machine

/-! ### One decimal number -/

theorem toNat_nib {k : Nat} (h : k < 10) : (nib k).toNat = 0x30 + k := by
  rw [nib, if_pos h, BitVec.toNat_ofNat, Nat.mod_eq_of_lt (by omega)]

theorem exists_nib_of_isDecDigit {c : Byte} (h : isDecDigit c = true) : ∃ k, k < 10 ∧ c = nib k := by
  simp only [isDecDigit, Bool.and_eq_true, decide_eq_true_eq] at h
  have hk : c.toNat - 0x30 < 10 := by omega
  refine ⟨c.toNat - 0x30, hk, BitVec.eq_of_toNat_eq ?_⟩
  rw [toNat_nib hk]
  omega

theorem nib_eq_chZero {k : Nat} (h : k < 10) : nib k = chZero ↔ k = 0 := by
  rw [← BitVec.toNat_inj, toNat_nib h, show chZero.toNat = 0x30 from rfl]
  omega

theorem parseOctet_dec (x : Byte) : parseOctet (dec x) = some x := by
  have h : ∀ x : Fin 256, parseOctet (dec (BitVec.ofFin x)) = some (BitVec.ofFin x) := by decide +kernel
  exact h x.toFin

/-- R103: of the digits 1 to 3, with no leading zero and a value up to 255, there is one spelling. -/
theorem eq_dec_of_parseOctet {p : Text} {x : Byte} (h : parseOctet p = some x) : p = dec x := by
  simp only [parseOctet, Option.ite_none_left_eq_some, Option.some_inj, Bool.not_eq_false, List.all_eq_true] at h
  obtain ⟨hlen, hdigits, hzero, hval, rfl⟩ := h
  have hx : (BitVec.ofNat 8 (decValue p)).toNat = decValue p := by
    rw [BitVec.toNat_ofNat, Nat.mod_eq_of_lt (by omega)]
  unfold dec
  rw [hx]
  match p with
  | [] => simp at hlen
  | [c] =>
    obtain ⟨i, hi, rfl⟩ := exists_nib_of_isDecDigit (hdigits c (by simp))
    have hv : decValue [nib i] = i := by simp [decValue, toNat_nib hi]
    simp [hv, hi]
  | [c, d] =>
    obtain ⟨i, hi, rfl⟩ := exists_nib_of_isDecDigit (hdigits c (by simp))
    obtain ⟨j, hj, rfl⟩ := exists_nib_of_isDecDigit (hdigits d (by simp))
    have hv : decValue [nib i, nib j] = 10 * i + j := by simp [decValue, toNat_nib hi, toNat_nib hj]
    simp [nib_eq_chZero hi] at hzero
    rw [hv, if_neg (by omega), if_pos (by omega)]
    congr <;> omega
  | [c, d, e] =>
    obtain ⟨i, hi, rfl⟩ := exists_nib_of_isDecDigit (hdigits c (by simp))
    obtain ⟨j, hj, rfl⟩ := exists_nib_of_isDecDigit (hdigits d (by simp))
    obtain ⟨k, hk, rfl⟩ := exists_nib_of_isDecDigit (hdigits e (by simp))
    have hv : decValue [nib i, nib j, nib k] = 100 * i + 10 * j + k := by
      simp [decValue, toNat_nib hi, toNat_nib hj, toNat_nib hk]
      omega
    simp [nib_eq_chZero hi] at hzero
    rw [hv, if_neg (by omega), if_neg (by omega)]
    congr <;> omega
  | _ :: _ :: _ :: _ :: _ => simp at hlen

/-! ### The four numbers -/

/-- R103: the four values that IPv4 text spells. -/
theorem parseV4_eq_some_iff (t : Text) (q : List Byte) :
    parseV4 t = some q ↔ ∃ a b c d, q = [a, b, c, d] ∧ t = joinWith chDot [dec a, dec b, dec c, dec d] := by
  constructor
  · intro h
    unfold parseV4 at h
    split at h
    case h_2 => cases h
    case h_1 p0 p1 p2 p3 hs =>
    split at h
    case h_2 => cases h
    case h_1 a b c d ha hb hc hd =>
    cases h
    refine ⟨a, b, c, d, rfl, ?_⟩
    rw [← eq_dec_of_parseOctet ha, ← eq_dec_of_parseOctet hb, ← eq_dec_of_parseOctet hc, ← eq_dec_of_parseOctet hd,
      ← hs, joinWith_splitAt]
  · rintro ⟨a, b, c, d, rfl, rfl⟩
    have hdot : ∀ p ∈ [dec a, dec b, dec c, dec d], chDot ∉ p := by
      have hdec : ∀ x, chDot ∉ dec x := fun x h => absurd ((dec_isPart x).2.2 _ h) (by decide)
      simp [hdec]
    simp [parseV4, splitAt_joinWith chDot _ (by simp) hdot, parseOctet_dec]

/-- R60, R102: an IPv4-mapped block is known by its last four bytes. -/
theorem fill_mappedPrefix_eq_iff (b : Block) (w x y z : Byte) :
    Bytes.fill 16 (mappedPrefix ++ [w, x, y, z]) = b ↔
      HasMappedPrefix b ∧ b.byteAt 12 = w ∧ b.byteAt 13 = x ∧ b.byteAt 14 = y ∧ b.byteAt 15 = z := by
  constructor
  · rintro rfl
    refine ⟨⟨fun i hi => ?_, rfl, rfl⟩, rfl, rfl, rfl, rfl⟩
    interval_cases i <;> rfl
  · rintro ⟨⟨hzero, h10, h11⟩, rfl, rfl, rfl, rfl⟩
    refine Bytes.ext_byteAt fun i hi => ?_
    rcases Nat.lt_or_ge i 10 with hlt | hge
    · rw [hzero i hlt]
      interval_cases i <;> rfl
    · interval_cases i
      exacts [h10.symm, h11.symm, rfl, rfl, rfl, rfl]

/-- R102, R103: the IPv4 branch of Parse. -/
theorem parseV4_map_eq_some_iff (t : Text) (b : Block) :
    (parseV4 t).map (fun q => Bytes.fill 16 (mappedPrefix ++ q)) = some b ↔ IsV4Text t b := by
  simp only [Option.map_eq_some_iff, parseV4_eq_some_iff, IsV4Text, dottedText_eq_format4, format4]
  constructor
  · rintro ⟨q, ⟨w, x, y, z, rfl, rfl⟩, hb⟩
    obtain ⟨hpre, rfl, rfl, rfl, rfl⟩ := (fill_mappedPrefix_eq_iff b w x y z).mp hb
    exact ⟨hpre, rfl⟩
  · rintro ⟨hpre, rfl⟩
    exact ⟨_, ⟨_, _, _, _, rfl, rfl⟩, (fill_mappedPrefix_eq_iff b _ _ _ _).mpr ⟨hpre, rfl, rfl, rfl, rfl⟩⟩

end Sys2Proof
end

section
/-! PROOFS. IPv6 text: its groups, its `::`, and the texts that parse to a block (R104). -/

namespace Sys2Proof

open Sys2Proof.Machine

/-! ### Groups -/

/-- R104: a group of IPv6 text, 1 to 4 hex digits of either case. -/
abbrev IsGroup : Text → Prop := IsPart (isHexDigit · = true) 4

theorem chColon_not_mem_of_isGroup {x : Text} (h : IsGroup x) : chColon ∉ x := fun hc => absurd (h.2.2 _ hc) (by decide)

theorem ne_nil_of_isGroup {x : Text} (h : IsGroup x) : x ≠ [] := List.ne_nil_of_length_pos h.1

/-- A relation that is a function on the elements with `P` relates a list to its image. -/
theorem forall₂_iff_map {α β : Type} {R : α → β → Prop} {P : α → Prop} {f : α → β} (h : ∀ a b, R a b ↔ P a ∧ b = f a)
    (l : List α) (m : List β) : List.Forall₂ R l m ↔ (∀ a ∈ l, P a) ∧ m = l.map f := by
  have hR : R = fun a b => P a ∧ f a = b := by
    funext a b
    rw [h, eq_comm (a := b)]
  rw [hR, List.forall₂_and_left, ← List.forall₂_map_left_iff, List.forall₂_eq_eq_eq, eq_comm]

theorem hexDigitIs_iff (c : Byte) (x : Nat) : HexDigitIs c x ↔ isHexDigit c = true ∧ x = (hexVal c).getD 0 := by
  rw [← hexVal_eq_some_iff, isHexDigit]
  cases hexVal c <;> simp [eq_comm]

theorem hexValue_eq_ofDigits (x : Text) :
    hexValue x = Nat.ofDigits 16 (x.map fun c => (hexVal c).getD 0).reverse := by
  simp [hexValue, Nat.ofDigits_eq_foldr, List.foldl_map, Nat.add_comm]

/-- R104: a group's text has one value. -/
theorem isGroupText_iff (x : Text) (n : Nat) : IsGroupText x n ↔ IsGroup x ∧ n = hexValue x := by
  simp only [IsGroupText, forall₂_iff_map hexDigitIs_iff, IsGroup, IsPart, hexValue_eq_ofDigits]
  constructor
  · rintro ⟨h1, h4, ds, ⟨hx, rfl⟩, hn⟩
    exact ⟨⟨h1, h4, hx⟩, hn⟩
  · rintro ⟨⟨h1, h4, hx⟩, hn⟩
    exact ⟨h1, h4, _, ⟨hx, rfl⟩, hn⟩

theorem hexVal_getD_lt (c : Byte) : (hexVal c).getD 0 < 16 := by
  cases h : hexVal c with
  | none => simp
  | some x =>
    rcases (hexVal_eq_some_iff c x).mp h with h | h <;> exact (List.getElem?_eq_some_iff.mp h).1

theorem hexValue_lt {x : Text} (h : x.length ≤ 4) : hexValue x < 65536 := by
  rw [hexValue_eq_ofDigits]
  calc _ < 16 ^ (x.map fun c => (hexVal c).getD 0).reverse.length :=
        Nat.ofDigits_lt_base_pow_length (by decide) (by simpa using fun c _ => hexVal_getD_lt c)
    _ ≤ 16 ^ 4 := Nat.pow_le_pow_right (by decide) (by simpa using h)

/-! ### The block of eight groups -/

/-- R60: the two bytes of a group. -/
def groupPair (n : Nat) : List Byte := [BitVec.ofNat 8 (n / 256), BitVec.ofNat 8 (n % 256)]

theorem groupBytes_eq_ite (x : Text) :
    groupBytes x = if x.length ≤ 4 then some (groupPair (hexValue x)) else none := by
  by_cases h : x.length ≤ 4
  · simp [groupBytes, groupPair, h, Nat.not_lt.mpr h]
  · simp [groupBytes, h, Nat.not_le.mp h]

theorem groupsBytes_eq_ite (g : List Text) :
    groupsBytes g = if ∀ x ∈ g, x.length ≤ 4 then some ((g.map hexValue).flatMap groupPair) else none := by
  induction g with
  | nil => rfl
  | cons x xs ih =>
    rw [groupsBytes, groupBytes_eq_ite, ih]
    simp only [List.forall_mem_cons]
    by_cases hx : x.length ≤ 4
    · by_cases hxs : ∀ y ∈ xs, y.length ≤ 4
      · rw [if_pos hx, if_pos hxs, if_pos ⟨hx, hxs⟩, List.map_cons, List.flatMap_cons]
      · rw [if_pos hx, if_neg hxs, if_neg fun h => hxs h.2]
    · simp [hx]

/-- R104: the bytes of the groups, each of at most 4 digits. -/
theorem groupsBytes_eq_some_iff (g : List Text) (bs : List Byte) :
    groupsBytes g = some bs ↔ (∀ x ∈ g, x.length ≤ 4) ∧ (g.map hexValue).flatMap groupPair = bs := by
  rw [groupsBytes_eq_ite, Option.ite_none_right_eq_some, Option.some_inj]

/-- R60: two blocks with the same groups are the same. -/
theorem ext_blockGroup {a b : Block} (h : ∀ g, g < 8 → blockGroup a g = blockGroup b g) : a = b := by
  refine Bytes.ext_byteAt fun i hi => BitVec.eq_of_toNat_eq ?_
  have hg := h (i / 2) (by omega)
  have hbyte : ∀ (c : Block) (j : Nat), (c.byteAt j).toNat < 256 := fun c j => (c.byteAt j).isLt
  have ha := hbyte a (2 * (i / 2) + 1)
  have hb := hbyte b (2 * (i / 2) + 1)
  simp only [blockGroup] at hg
  rcases Nat.mod_two_eq_zero_or_one i with hi2 | hi2
  · rw [show i = 2 * (i / 2) by omega]
    omega
  · rw [show i = 2 * (i / 2) + 1 by omega]
    omega

/-- R60: the two bytes of each group, at their places. -/
theorem getElem?_flatMap_groupPair (m : List Nat) (k : Nat) :
    (m.flatMap groupPair)[2 * k]? = m[k]?.map (fun n => BitVec.ofNat 8 (n / 256)) ∧
      (m.flatMap groupPair)[2 * k + 1]? = m[k]?.map (fun n => BitVec.ofNat 8 (n % 256)) := by
  induction m generalizing k with
  | nil => simp
  | cons n ns ih =>
    cases k with
    | zero => simp [groupPair]
    | succ k => simpa [groupPair, Nat.mul_add] using ih k

theorem blockGroup_fill {m : List Nat} (hlen : m.length = 8) (hm : ∀ n ∈ m, n < 65536) {g : Nat} (hg : g < 8) :
    blockGroup (Bytes.fill 16 (m.flatMap groupPair)) g = m[g] := by
  obtain ⟨hhi, hlo⟩ := getElem?_flatMap_groupPair m g
  have hn : m[g] < 65536 := hm _ (List.getElem_mem _)
  rw [List.getElem?_eq_getElem (by omega : g < m.length)] at hhi hlo
  rw [blockGroup, Bytes.byteAt_fill _ _ _ (by omega), Bytes.byteAt_fill _ _ _ (by omega), List.getD, List.getD, hhi, hlo]
  simp
  omega

theorem fill_groupPairs_eq_iff {m : List Nat} (hlen : m.length = 8) (hm : ∀ n ∈ m, n < 65536) (b : Block) :
    Bytes.fill 16 (m.flatMap groupPair) = b ↔ (List.range 8).map (blockGroup b) = m := by
  have hlist : (List.range 8).map (blockGroup (Bytes.fill 16 (m.flatMap groupPair))) = m :=
    List.ext_getElem (by simp [hlen]) fun g h1 h2 => by
      simpa using blockGroup_fill hlen hm (hlen ▸ h2)
  constructor
  · rintro rfl
    exact hlist
  · intro h
    refine ext_blockGroup fun g hg => ?_
    simpa [hg] using congrArg (·[g]?) (hlist.trans h.symm)

/-! ### The `::` -/

theorem countDoubleColon_cons {a : Byte} {t : Text} (h : a = chColon → t.head? ≠ some chColon) :
    countDoubleColon (a :: t) = countDoubleColon t := by
  cases t with
  | nil => rfl
  | cons b rest =>
    have hab : ¬ (a = chColon ∧ b = chColon) := fun ⟨ha, hb⟩ => h ha (by simp [hb])
    simp [countDoubleColon, hab]

theorem splitDoubleColon_cons {a : Byte} {t : Text} (h : a = chColon → t.head? ≠ some chColon) :
    splitDoubleColon (a :: t) = (splitDoubleColon t).map (fun p => (a :: p.1, p.2)) := by
  cases t with
  | nil => rfl
  | cons b rest =>
    have hab : ¬ (a = chColon ∧ b = chColon) := fun ⟨ha, hb⟩ => h ha (by simp [hb])
    rw [splitDoubleColon, if_neg hab]

/-- R104: a text with no place to split has no `::`. -/
theorem countDoubleColon_of_split_none {t : Text} (h : splitDoubleColon t = none) : countDoubleColon t = 0 := by
  induction t with
  | nil => rfl
  | cons a t ih =>
    by_cases ha : a = chColon ∧ t.head? = some chColon
    · obtain ⟨rfl, ht⟩ := ha
      obtain ⟨rest, rfl⟩ := List.head?_eq_some_iff.mp ht
      simp [splitDoubleColon] at h
    · rw [not_and] at ha
      rw [splitDoubleColon_cons ha, Option.map_eq_none_iff] at h
      rw [countDoubleColon_cons ha, ih h]

/-- R104: three colons in a row are two places where `::` stands. -/
theorem two_le_countDoubleColon_of_triple {t : Text} (h : hasTripleColon t = true) : 2 ≤ countDoubleColon t := by
  induction t with
  | nil => simp [hasTripleColon] at h
  | cons a t ih =>
    match t with
    | [] | [_] => simp [hasTripleColon] at h
    | b :: c :: rest =>
      simp only [hasTripleColon, Bool.or_eq_true, Bool.and_eq_true, beq_iff_eq] at h
      rcases h with ⟨⟨rfl, rfl⟩, rfl⟩ | h
      · simp [countDoubleColon]
        omega
      · have := ih h
        rw [countDoubleColon]
        omega

theorem splitDoubleColon_append {x : Text} (h : chColon ∉ x) (t : Text) :
    splitDoubleColon (x ++ t) = (splitDoubleColon t).map (fun p => (x ++ p.1, p.2)) := by
  induction x with
  | nil => simp
  | cons a x ih =>
    rw [List.mem_cons, not_or] at h
    rw [List.cons_append, splitDoubleColon_cons fun ha => absurd ha.symm h.1, ih h.2, Option.map_map]
    rfl

theorem head?_joinWith_ne_chColon {x : Text} {xs : List Text} (h : IsGroup x) (t : Text) :
    (joinWith chColon (x :: xs) ++ t).head? ≠ some chColon := by
  obtain ⟨c, x, rfl⟩ := List.exists_cons_of_ne_nil (ne_nil_of_isGroup h)
  have hc : c ≠ chColon := fun hc => chColon_not_mem_of_isGroup h (by simp [hc])
  cases xs <;> simpa [joinWith] using hc

/-- R104: no `::` stands in groups joined by colons; the first one of a text that begins with them stands after them. -/
theorem splitDoubleColon_joinWith_append {g : List Text} (h : ∀ x ∈ g, IsGroup x) (t : Text) :
    splitDoubleColon (joinWith chColon g ++ t) =
      (splitDoubleColon t).map (fun p => (joinWith chColon g ++ p.1, p.2)) := by
  induction g with
  | nil => simp [joinWith]
  | cons x xs ih =>
    rw [List.forall_mem_cons] at h
    cases xs with
    | nil => exact splitDoubleColon_append (chColon_not_mem_of_isGroup h.1) t
    | cons y ys =>
      rw [joinWith_cons_cons, List.append_assoc, splitDoubleColon_append (chColon_not_mem_of_isGroup h.1),
        List.cons_append, splitDoubleColon_cons fun _ => head?_joinWith_ne_chColon (h.2 y (by simp)) t, ih h.2,
        Option.map_map, Option.map_map]
      simp [Function.comp_def]

theorem splitDoubleColon_joinWith {g : List Text} (h : ∀ x ∈ g, IsGroup x) :
    splitDoubleColon (joinWith chColon g) = none := by
  have hsplit := splitDoubleColon_joinWith_append h []
  rwa [List.append_nil] at hsplit

/-- R104: the `::` between two sides of groups is found, and it is the only one. -/
theorem splitDoubleColon_sides {l r : List Text} (hl : ∀ x ∈ l, IsGroup x) :
    splitDoubleColon (joinWith chColon l ++ [chColon, chColon] ++ joinWith chColon r) =
      some (joinWith chColon l, joinWith chColon r) := by
  rw [List.append_assoc, splitDoubleColon_joinWith_append hl]
  simp [splitDoubleColon]

theorem countDoubleColon_of_split_some {u l r : Text} (h : splitDoubleColon u = some (l, r)) :
    countDoubleColon u = 1 + countDoubleColon (chColon :: r) := by
  induction u generalizing l with
  | nil => simp [splitDoubleColon] at h
  | cons a t ih =>
    by_cases ha : a = chColon ∧ t.head? = some chColon
    · obtain ⟨rfl, ht⟩ := ha
      obtain ⟨rest, rfl⟩ := List.head?_eq_some_iff.mp ht
      obtain ⟨-, rfl⟩ : [] = l ∧ rest = r := by simpa [splitDoubleColon] using h
      simp [countDoubleColon]
    · rw [not_and] at ha
      rw [splitDoubleColon_cons ha, Option.map_eq_some_iff] at h
      obtain ⟨⟨l', r'⟩, hs, hp⟩ := h
      obtain ⟨-, rfl⟩ := Prod.mk.inj hp
      rw [countDoubleColon_cons ha, ih hs]

theorem head?_joinWith_groups {g : List Text} (h : ∀ x ∈ g, IsGroup x) :
    (joinWith chColon g).head? ≠ some chColon := by
  cases g with
  | nil => simp [joinWith]
  | cons x xs =>
    have hx := head?_joinWith_ne_chColon (xs := xs) (h x (by simp)) []
    rwa [List.append_nil] at hx

theorem countDoubleColon_sides {l r : List Text} (hl : ∀ x ∈ l, IsGroup x) (hr : ∀ x ∈ r, IsGroup x) :
    countDoubleColon (joinWith chColon l ++ [chColon, chColon] ++ joinWith chColon r) = 1 := by
  rw [countDoubleColon_of_split_some (splitDoubleColon_sides hl), countDoubleColon_cons fun _ => head?_joinWith_groups hr,
    countDoubleColon_of_split_none (splitDoubleColon_joinWith hr)]

/-! ### The eight groups of a text -/

theorem joinWith_sideGroups (u : Text) : joinWith chColon (sideGroups u) = u := by
  unfold sideGroups
  split
  case isTrue h => exact h.symm
  case isFalse => exact joinWith_splitAt chColon u

theorem splitAt_joinWith_groups {g : List Text} (h : ∀ x ∈ g, IsGroup x) (hne : g ≠ []) :
    splitAt chColon (joinWith chColon g) = g :=
  splitAt_joinWith chColon g hne fun x hx => chColon_not_mem_of_isGroup (h x hx)

theorem sideGroups_joinWith {g : List Text} (h : ∀ x ∈ g, IsGroup x) : sideGroups (joinWith chColon g) = g := by
  unfold sideGroups
  split
  case isTrue hnil =>
    cases g with
    | nil => rfl
    | cons x xs =>
      have hb := (length_joinWith_bounds chColon h).1
      simp only [hnil, List.length_cons, List.length_nil] at hb
      omega
  case isFalse hne => exact splitAt_joinWith_groups h fun hg => hne (by simp [hg, joinWith])

theorem chColon_not_mem_of_mem_sideGroups {u x : Text} (h : x ∈ sideGroups u) : chColon ∉ x := by
  unfold sideGroups at h
  split at h
  case isTrue => cases h
  case isFalse => exact not_mem_of_mem_splitAt h

/-- R104: `g` are the eight groups of the text `u`, those that a `::` stands for spelled `0`. -/
def IsExpansion (u : Text) (g : List Text) : Prop :=
  (∀ x ∈ g, IsGroup x) ∧ g.length = 8 ∧
    (u = joinWith chColon g ∨
      ∃ l r n, g = l ++ List.replicate (n + 1) [chZero] ++ r ∧
        u = joinWith chColon l ++ [chColon, chColon] ++ joinWith chColon r)

theorem isGroup_zero : IsGroup [chZero] := by simp [IsGroup, IsPart]; decide

theorem hexValue_zero : hexValue [chZero] = 0 := by decide

/-- R104: the texts of the grammar are those with eight groups, and the block's groups are their values. -/
theorem isV6Text_iff (u : Text) (b : Block) :
    IsV6Text u b ↔ ∃ g, IsExpansion u g ∧ (List.range 8).map (blockGroup b) = g.map hexValue := by
  simp only [IsV6Text, forall₂_iff_map isGroupText_iff, ← joinWith_eq_intercalate, IsExpansion]
  constructor
  · rintro ⟨l, r, m, n, ⟨hl, rfl⟩, ⟨hr, rfl⟩, ⟨hlen, rfl, hu, hb⟩ | ⟨hlen, hu, hb⟩⟩
    · exact ⟨l, ⟨hl, hlen, .inl hu⟩, hb⟩
    · have hn : 8 - (l.length + r.length) = 7 - (l.length + r.length) + 1 := by omega
      refine ⟨l ++ List.replicate (7 - (l.length + r.length) + 1) [chZero] ++ r, ⟨?_, ?_, .inr ⟨l, r, _, rfl, hu⟩⟩, ?_⟩
      · simp only [List.forall_mem_append]
        exact ⟨⟨hl, fun x hx => List.eq_of_mem_replicate hx ▸ isGroup_zero⟩, hr⟩
      · simp
        omega
      · simp [hb, hn, hexValue_zero]
  · rintro ⟨g, ⟨hg, hlen, rfl | ⟨l, r, n, rfl, rfl⟩⟩, hb⟩
    · exact ⟨g, [], _, [], ⟨hg, rfl⟩, ⟨by simp, rfl⟩, .inl ⟨hlen, rfl, rfl, hb⟩⟩
    · simp only [List.forall_mem_append] at hg
      simp only [List.length_append, List.length_replicate] at hlen
      have hn : 8 - (l.length + r.length) = n + 1 := by omega
      refine ⟨l, r, _, _, ⟨hg.1.1, rfl⟩, ⟨hg.2, rfl⟩, .inr ⟨by omega, rfl, ?_⟩⟩
      simp [hb, hn, hexValue_zero]

theorem isGroup_sides {l r : List Text} {n : Nat}
    (h : ∀ x ∈ l ++ List.replicate (n + 1) [chZero] ++ r, IsGroup x) : (∀ x ∈ l, IsGroup x) ∧ ∀ x ∈ r, IsGroup x := by
  simp only [List.forall_mem_append] at h
  exact ⟨h.1.1, h.2⟩

/-- R104, R76: the characters of IPv6 text. -/
def IsV6Char (c : Byte) : Prop := isHexDigit c = true ∨ c = chColon

theorem IsExpansion.chars {u : Text} {g : List Text} (h : IsExpansion u g) : ∀ c ∈ u, IsV6Char c := by
  intro c hc
  obtain ⟨hg, -, rfl | ⟨l, r, n, rfl, rfl⟩⟩ := h
  · exact mem_joinWith_of_isPart hg hc
  · obtain ⟨hl, hr⟩ := isGroup_sides hg
    rcases List.mem_append.mp hc with hc | hc
    · rcases List.mem_append.mp hc with hc | hc
      · exact mem_joinWith_of_isPart hl hc
      · exact .inr (by simpa using hc)
    · exact mem_joinWith_of_isPart hr hc

theorem IsExpansion.length_bounds {u : Text} {g : List Text} (h : IsExpansion u g) : 2 ≤ u.length ∧ u.length ≤ 39 := by
  obtain ⟨hg, hlen, rfl | ⟨l, r, n, rfl, rfl⟩⟩ := h
  · have hb := length_joinWith_bounds chColon hg
    omega
  · obtain ⟨hl, hr⟩ := isGroup_sides hg
    have hbl := (length_joinWith_bounds chColon hl).2
    have hbr := (length_joinWith_bounds chColon hr).2
    simp only [List.length_append, List.length_replicate, List.length_cons, List.length_nil] at hlen ⊢
    omega

theorem IsExpansion.chColon_mem {u : Text} {g : List Text} (h : IsExpansion u g) : chColon ∈ u := by
  obtain ⟨-, hlen, rfl | ⟨l, r, n, rfl, rfl⟩⟩ := h
  · exact mem_joinWith.mpr (.inr ⟨rfl, by omega⟩)
  · simp

theorem IsExpansion.countDoubleColon_le_one {u : Text} {g : List Text} (h : IsExpansion u g) :
    countDoubleColon u ≤ 1 := by
  obtain ⟨hg, -, rfl | ⟨l, r, n, rfl, rfl⟩⟩ := h
  · rw [countDoubleColon_of_split_none (splitDoubleColon_joinWith hg)]
    exact Nat.zero_le 1
  · obtain ⟨hl, hr⟩ := isGroup_sides hg
    exact (countDoubleColon_sides hl hr).le

theorem IsExpansion.v6Groups_eq {u : Text} {g : List Text} (h : IsExpansion u g) : v6Groups u = some g := by
  have hnil : ∀ g : List Text, (∀ x ∈ g, IsGroup x) → [] ∉ g := fun g hg hmem => ne_nil_of_isGroup (hg [] hmem) rfl
  obtain ⟨hg, hlen, rfl | ⟨l, r, n, rfl, rfl⟩⟩ := h
  · have hne : g ≠ [] := List.ne_nil_of_length_pos (by omega)
    simp [v6Groups, splitDoubleColon_joinWith hg, splitAt_joinWith_groups hg hne, hlen, hnil g hg]
  · obtain ⟨hl, hr⟩ := isGroup_sides hg
    simp only [List.length_append, List.length_replicate] at hlen
    have hn : 8 - (l.length + r.length) = n + 1 := by omega
    have h7 : l.length + r.length ≤ 7 := by omega
    rw [v6Groups, splitDoubleColon_sides hl]
    simp [sideGroups_joinWith hl, sideGroups_joinWith hr, hnil l hl, hnil r hr, hn, Nat.not_lt.mpr h7]

/-- R104: the parts between the colons of a text of the right characters are groups, if none is empty or too long. -/
theorem isGroup_of_parts {parts : List Text} (hchars : ∀ c ∈ joinWith chColon parts, IsV6Char c)
    (hcolon : ∀ x ∈ parts, chColon ∉ x) (hnil : [] ∉ parts) (hlen : ∀ x ∈ parts, x.length ≤ 4) :
    ∀ x ∈ parts, IsGroup x := by
  intro x hx
  have hne : x ≠ [] := fun h => hnil (h ▸ hx)
  refine ⟨List.length_pos_iff.mpr hne, hlen x hx, fun c hc => ?_⟩
  rcases hchars c (mem_joinWith.mpr (.inl ⟨x, hx, hc⟩)) with h | rfl
  · exact h
  · exact absurd hc (hcolon x hx)

theorem isGroup_of_sideGroups {u : Text} (hu : ∀ c ∈ u, IsV6Char c) (hnil : [] ∉ sideGroups u)
    (hlen : ∀ x ∈ sideGroups u, x.length ≤ 4) : ∀ x ∈ sideGroups u, IsGroup x :=
  isGroup_of_parts ((joinWith_sideGroups u).symm ▸ hu) (fun _ => chColon_not_mem_of_mem_sideGroups) hnil hlen

/-- R104: what ParseV6 finds in a text of the right characters are its eight groups. -/
theorem isExpansion_of_v6Groups {u : Text} {g : List Text} (hu : ∀ c ∈ u, IsV6Char c) (h : v6Groups u = some g)
    (hlen : ∀ x ∈ g, x.length ≤ 4) : IsExpansion u g := by
  unfold v6Groups at h
  split at h
  case h_1 l r hs =>
    obtain rfl := splitDoubleColon_eq_some hs
    simp only [List.forall_mem_append] at hu
    obtain ⟨⟨hul, -⟩, hur⟩ := hu
    simp only [Option.ite_none_left_eq_some, Option.some_inj, Bool.or_eq_true, List.contains_iff_mem, not_or,
      Nat.not_lt] at h
    obtain ⟨⟨hnl, hnr⟩, h7, rfl⟩ := h
    simp only [List.forall_mem_append] at hlen
    obtain ⟨⟨hll, -⟩, hlr⟩ := hlen
    have hsub : 8 - ((sideGroups l).length + (sideGroups r).length) =
        7 - ((sideGroups l).length + (sideGroups r).length) + 1 := by omega
    refine ⟨?_, by simp; omega, .inr ⟨sideGroups l, sideGroups r, _, by rw [hsub], ?_⟩⟩
    · simp only [List.forall_mem_append]
      exact ⟨⟨isGroup_of_sideGroups hul hnl hll, fun x hx => List.eq_of_mem_replicate hx ▸ isGroup_zero⟩,
        isGroup_of_sideGroups hur hnr hlr⟩
    · rw [joinWith_sideGroups, joinWith_sideGroups]
  case h_2 =>
    simp only [Option.ite_none_left_eq_some, Option.some_inj, List.contains_iff_mem, not_not] at h
    obtain ⟨h8, hnil, rfl⟩ := h
    have hjoin := joinWith_splitAt chColon u
    exact ⟨isGroup_of_parts (hjoin.symm ▸ hu) (fun _ => not_mem_of_mem_splitAt) hnil hlen, h8, .inl hjoin.symm⟩

/-- R104: ParseV6 accepts the texts with eight groups, and gives the block of their values. -/
theorem parseV6_eq_some_iff (u : Text) (b : Block) : parseV6 u = some b ↔ IsV6Text u b := by
  have hchars : u.all (fun c => isHexDigit c || c == chColon) = true ↔ ∀ c ∈ u, IsV6Char c := by simp [IsV6Char]
  have hblock : ∀ g, IsExpansion u g → (Bytes.fill 16 ((g.map hexValue).flatMap groupPair) = b ↔
      (List.range 8).map (blockGroup b) = g.map hexValue) := fun g ⟨hg, hlen, _⟩ =>
    fill_groupPairs_eq_iff (by simpa using hlen) (by simpa using fun x hx => hexValue_lt (hg x hx).2.1) b
  rw [isV6Text_iff]
  constructor
  · intro h
    simp only [parseV6, Option.ite_none_left_eq_some, Bool.not_eq_false, hchars] at h
    obtain ⟨hu, -, -, h⟩ := h
    cases hg : v6Groups u with
    | none => simp [hg] at h
    | some g =>
      simp only [hg, Option.map_eq_some_iff, groupsBytes_eq_some_iff] at h
      obtain ⟨_, ⟨hlen, rfl⟩, hb⟩ := h
      have he := isExpansion_of_v6Groups hu hg hlen
      exact ⟨g, he, (hblock g he).mp hb⟩
  · rintro ⟨g, he, hb⟩
    have hcount := he.countDoubleColon_le_one
    have htriple : ¬ hasTripleColon u = true := fun h => by
      have := two_le_countDoubleColon_of_triple h
      omega
    have hbytes := (groupsBytes_eq_some_iff g _).mpr ⟨fun x hx => (he.1 x hx).2.1, rfl⟩
    simp [parseV6, hchars.mpr he.chars, htriple, Nat.not_le.mpr (Nat.lt_succ_of_le hcount), he.v6Groups_eq, hbytes,
      (hblock g he).mpr hb]

end Sys2Proof
end

section
/-! PROOFS. The texts that Parse accepts: the top-level dispatch of the grammar (R76, R101, R102). -/

namespace Sys2Proof

open Sys2Proof.Machine

theorem unbracket_eq_some_iff {t u : Text} (h : t.head? = some chOpen) :
    unbracket t = some u ↔ t = [chOpen] ++ u ++ [chClose] := by
  obtain ⟨t, rfl⟩ := List.head?_eq_some_iff.mp h
  rcases List.eq_nil_or_concat t with rfl | ⟨v, c, rfl⟩
  · simp [unbracket]
  · simp [unbracket, List.getLast?_cons]
    tauto

/-- R102, R104: IPv6 text has a colon, does not begin with a bracket, and fits the buffer. -/
theorem v6Text_shape {u : Text} {b : Block} (h : IsV6Text u b) :
    (2 ≤ u.length ∧ u.length ≤ 39) ∧ chColon ∈ u ∧ ∀ c ∈ u, IsV6Char c := by
  obtain ⟨g, hg, -⟩ := (isV6Text_iff u b).mp h
  exact ⟨hg.length_bounds, hg.chColon_mem, hg.chars⟩

/-- R105: the dotted text has no colon and no bracket, and fits the buffer. -/
theorem v4Text_shape {t : Text} {b : Block} (h : IsV4Text t b) :
    (7 ≤ t.length ∧ t.length ≤ 15) ∧ ∀ c ∈ t, c ∈ hexCharacters ∨ c = chDot := by
  obtain ⟨-, rfl⟩ := h
  rw [dottedText_eq_format4]
  exact ⟨length_format4 b, fun c hc => mem_format4 hc⟩

theorem chOpen_not_v6Char : ¬ IsV6Char chOpen := by
  simp only [IsV6Char]
  decide

/-- R101, R102: the three branches of Parse, on a text of a length that the buffer holds. -/
theorem parse_eq_some_iff (t : Text) (b : Block) :
    parse t = some b ↔ (t.length ≠ 0 ∧ t.length ≤ 64) ∧
      ((t.head? = some chOpen ∧ ∃ u, unbracket t = some u ∧ chColon ∈ u ∧ parseV6 u = some b) ∨
        (t.head? ≠ some chOpen ∧ chColon ∈ t ∧ parseV6 t = some b) ∨
        (t.head? ≠ some chOpen ∧ chColon ∉ t ∧ IsV4Text t b)) := by
  rw [← parseV4_map_eq_some_iff]
  simp only [parse, Option.ite_none_left_eq_some, not_or, Nat.not_lt]
  refine and_congr_right fun _ => ?_
  by_cases ho : t.head? = some chOpen
  · cases hu : unbracket t <;> simp [ho]
  · by_cases hc : chColon ∈ t <;> simp [ho, hc]

/-- Settles O60: each branch of the dispatch is one of the three forms, whose own shape leads to that branch. -/
theorem parseWrittenOut : Obligations.ParseWrittenOut := by
  intro t b
  rw [parse_eq_some_iff]
  constructor
  · rintro ⟨-, ⟨ho, u, hu, -, hb⟩ | ⟨-, -, hb⟩ | ⟨-, -, hb⟩⟩
    · exact .inr (.inr ⟨u, (unbracket_eq_some_iff ho).mp hu, (parseV6_eq_some_iff u b).mp hb⟩)
    · exact .inr (.inl ((parseV6_eq_some_iff t b).mp hb))
    · exact .inl hb
  · rintro (h | h | ⟨u, rfl, h⟩)
    · obtain ⟨hlen, hchars⟩ := v4Text_shape h
      refine ⟨by omega, .inr (.inr ⟨fun ho => ?_, fun hc => ?_, h⟩)⟩
      · exact absurd (hchars _ (List.mem_of_mem_head? ho)) (by decide)
      · exact absurd (hchars _ hc) (by decide)
    · obtain ⟨hlen, hcolon, hchars⟩ := v6Text_shape h
      refine ⟨by omega, .inr (.inl ⟨fun ho => ?_, hcolon, (parseV6_eq_some_iff t b).mpr h⟩)⟩
      exact chOpen_not_v6Char (hchars _ (List.mem_of_mem_head? ho))
    · obtain ⟨hlen, hcolon, -⟩ := v6Text_shape h
      exact ⟨by simp; omega,
        .inl ⟨rfl, u, (unbracket_eq_some_iff rfl).mpr rfl, hcolon, (parseV6_eq_some_iff u b).mpr h⟩⟩

theorem isAddressChar_of_isV6Char {c : Byte} (h : IsV6Char c) : isAddressChar c = true := by
  rcases h with h | rfl
  · simp [isAddressChar, h]
  · decide

theorem isAddressChar_of_mem_v4 {c : Byte} (h : c ∈ hexCharacters ∨ c = chDot) : isAddressChar c = true := by
  have hhex : ∀ c ∈ hexCharacters, isAddressChar c = true := by decide
  rcases h with h | rfl
  · exact hhex c h
  · decide

/-- Settles O34: the length is tested first, and each form has its own characters. -/
theorem parserAcceptsOnlyAddressCharacters : Obligations.ParserAcceptsOnlyAddressCharacters := by
  intro t b h
  obtain ⟨⟨hne, hle⟩, -⟩ := (parse_eq_some_iff t b).mp h
  refine ⟨by omega, hle, fun c hc => ?_⟩
  rcases (parseWrittenOut t b).mp h with hv4 | hv6 | ⟨u, rfl, hv6⟩
  · exact isAddressChar_of_mem_v4 ((v4Text_shape hv4).2 c hc)
  · exact isAddressChar_of_isV6Char ((v6Text_shape hv6).2.2 c hc)
  · simp only [List.mem_append, List.mem_singleton] at hc
    rcases hc with (rfl | hc) | rfl
    · decide
    · exact isAddressChar_of_isV6Char ((v6Text_shape hv6).2.2 c hc)
    · decide

end Sys2Proof
end

section
/-! PROOFS. The command word: its fields, the answer of the decoder in terms of them, and the two round trips (R81 to
R88). -/

namespace Sys2Proof

open Sys2Proof.Machine

/-! ### The operands of a command (R81, R82, R83) -/

theorem wellFormed_iff (i : Instr) : i.WellFormed = true ↔ i.round ≤ 15 := by
  cases i <;> simp [Instr.WellFormed, Instr.round]

theorem round_eq_zero {i : Instr} (h : i.cls ≠ .r) : i.round = 0 := by
  cases i <;> simp_all [Instr.cls, Instr.round]

theorem ksel_eq_a {i : Instr} (h : i.cls ≠ .k) : i.ksel = .a := by
  cases i <;> simp_all [Instr.cls, Instr.ksel]

@[simp] theorem bit_keySelOfBit (b : BitVec 1) : (keySelOfBit b).bit = b := by
  revert b; decide

@[simp] theorem keySelOfBit_bit (k : KeySel) : keySelOfBit k.bit = k := by
  cases k <;> rfl

theorem checkUnusedFields_eq_none_iff (c : FieldClass) (r : BitVec 4) (k : BitVec 1) :
    checkUnusedFields c r k = none ↔ (c ≠ .r → r = 0) ∧ (c ≠ .k → k = 0) := by
  cases c with
  | n =>
    simp only [checkUnusedFields]
    split_ifs <;> simp_all
  | r => simp [checkUnusedFields]
  | k => simp [checkUnusedFields]

/-! ### The rows of the opcode map (R83, R84) -/

/-- R82, R83: the commands that a row makes have its opcode and its class, and the operands that the class uses. -/
def OpRow.Lawful (row : OpRow) : Prop :=
  ∀ (r : Nat) (k : KeySel), (row.make r k).op = row.op ∧ (row.make r k).cls = row.cls ∧
    (row.make r k).round = (if row.cls = .r then r else 0) ∧ (row.make r k).ksel = (if row.cls = .k then k else .a)

theorem lawful_of_mem_opTable : ∀ row ∈ opTable, row.Lawful := by
  rw [← List.forall_iff_forall_mem]
  (repeat' apply And.intro) <;> exact fun _ _ => ⟨rfl, rfl, rfl, rfl⟩

/-- R84: the row found for a command's opcode is of its class and makes it. -/
theorem find?_op (i : Instr) :
    ∃ row, opTable.find? (fun row => row.op == i.op) = some row ∧ row.cls = i.cls ∧ row.make i.round i.ksel = i := by
  cases i <;> exact ⟨_, rfl, rfl, rfl⟩

theorem cls_eq_of_op_eq {i j : Instr} (h : i.op = j.op) : i.cls = j.cls := by
  obtain ⟨a, ha, hi, -⟩ := find?_op i
  obtain ⟨b, hb, hj, -⟩ := find?_op j
  have hab : a = b := Option.some_inj.mp (ha.symm.trans (h ▸ hb))
  rw [← hi, ← hj, hab]

/-- R84: the opcodes that have a row. -/
theorem op_assigned (i : Instr) :
    i.op.toNat ≤ 0x01 ∨ (0x10 ≤ i.op.toNat ∧ i.op.toNat ≤ 0x1C) ∨ (0x20 ≤ i.op.toNat ∧ i.op.toNat ≤ 0x25) ∨
      (0x30 ≤ i.op.toNat ∧ i.op.toNat ≤ 0x33) ∨ (0x40 ≤ i.op.toNat ∧ i.op.toNat ≤ 0x45) := by
  cases i <;> simp [Instr.op]

/-! ### The fields of a word (R81) -/

/-- R81: each field of the word is the command's, and the reserved one is 0. -/
def HasFieldsOf (v : Word) (i : Instr) : Prop :=
  opField v = i.op ∧ (roundField v).toNat = i.round ∧ keySelField v = i.ksel.bit ∧ reservedField v = 0

theorem toNat_eq_fields (v : Word) :
    v.toNat = (opField v).toNat + 256 * (roundField v).toNat + 4096 * (keySelField v).toNat +
      8192 * (reservedField v).toNat := by
  simp [opField, roundField, keySelField, reservedField, BitVec.extractLsb'_toNat, Nat.shiftRight_eq_div_pow]
  omega

theorem or_shifts_eq_add {op r : Nat} (hop : op < 2 ^ 8) (hr : r ≤ 15) (k : Nat) :
    op ||| r <<< 8 ||| k <<< 12 = op + 256 * r + 4096 * k := by
  rw [Nat.or_comm op, ← Nat.shiftLeft_add_eq_or_of_lt hop, Nat.or_comm, ← Nat.shiftLeft_add_eq_or_of_lt (by omega)]
  omega

theorem toNat_or_shifts (op : Byte) {r : Nat} (hr : r ≤ 15) (k : BitVec 1) :
    (op.setWidth 32 ||| (BitVec.ofNat 32 r <<< 8) ||| (k.setWidth 32 <<< 12)).toNat =
      op.toNat + 256 * r + 4096 * k.toNat := by
  have hop := op.isLt
  have hk := k.isLt
  rw [← or_shifts_eq_add hop hr]
  simp (disch := omega) only [BitVec.toNat_or, BitVec.toNat_shiftLeft, BitVec.toNat_setWidth, BitVec.toNat_ofNat,
    Nat.mod_eq_of_lt]

/-- R81, R88: a word is the word of a well-formed command exactly if its fields are the command's. -/
theorem encode_eq_iff (i : Instr) (v : Word) : i.WellFormed = true ∧ encode i = v ↔ HasFieldsOf v i := by
  have hv := toNat_eq_fields v
  have hop := (opField v).isLt
  have hr := (roundField v).isLt
  have hk := (keySelField v).isLt
  have hop' := i.op.isLt
  have hk' := i.ksel.bit.isLt
  have hzero : (0 : BitVec 19).toNat = 0 := rfl
  simp only [wellFormed_iff, HasFieldsOf, encode, ← BitVec.toNat_inj]
  constructor
  · rintro ⟨hi, h⟩
    rw [toNat_or_shifts _ hi] at h
    omega
  · rintro ⟨h1, h2, h3, h4⟩
    have hi : i.round ≤ 15 := by omega
    refine ⟨hi, ?_⟩
    rw [toNat_or_shifts _ hi]
    omega

/-! ### The answer of the decoder (R83, R85) -/

theorem decode_eq_ok_iff_row (v : Word) (i : Instr) :
    decode v = .ok i ↔ ∃ row, opTable.find? (fun row => row.op == opField v) = some row ∧ reservedField v = 0 ∧
      checkUnusedFields row.cls (roundField v) (keySelField v) = none ∧
      row.make (roundField v).toNat (keySelOfBit (keySelField v)) = i := by
  unfold decode
  split
  · simp [*]
  · next row hrow =>
    by_cases hres : reservedField v = 0
    · cases hun : checkUnusedFields row.cls (roundField v) (keySelField v) <;> simp [hrow, hres, hun]
    · rw [if_pos hres]
      exact ⟨nofun, fun ⟨_, _, h, _⟩ => absurd h hres⟩

/-- R85: a word decodes to a command exactly if each field is the command's. From the word to the command, the row found
makes it; from the command to the word, the row of its opcode is the one found. -/
theorem decode_eq_ok_iff (v : Word) (i : Instr) : decode v = .ok i ↔ HasFieldsOf v i := by
  rw [decode_eq_ok_iff_row]
  constructor
  · rintro ⟨row, hrow, hres, hunused, rfl⟩
    obtain ⟨hop, -, hround, hksel⟩ := lawful_of_mem_opTable row (List.mem_of_find?_eq_some hrow) (roundField v).toNat
      (keySelOfBit (keySelField v))
    obtain ⟨hr, hk⟩ := (checkUnusedFields_eq_none_iff ..).mp hunused
    have hrow_op : row.op = opField v := by simpa using List.find?_some hrow
    refine ⟨hop.trans hrow_op |>.symm, ?_, ?_, hres⟩
    · rw [hround]
      split_ifs with hc
      · rfl
      · simp [hr hc]
    · rw [hksel]
      split_ifs with hc
      · simp
      · exact hk hc
  · rintro ⟨hop, hr, hk, hres⟩
    obtain ⟨row, hrow, hcls, hmake⟩ := find?_op i
    refine ⟨row, hop ▸ hrow, hres, ?_, by simp [hr, hk, hmake]⟩
    rw [checkUnusedFields_eq_none_iff, hcls, ← BitVec.toNat_inj, hr, hk]
    exact ⟨round_eq_zero, fun h => by rw [ksel_eq_a h]; rfl⟩

theorem decode_eq_ok_iff_encode (v : Word) (i : Instr) : decode v = .ok i ↔ i.WellFormed = true ∧ encode i = v :=
  (decode_eq_ok_iff v i).trans (encode_eq_iff i v).symm

/-- Settles O1: the command's own word is one of the words that decode to it. -/
theorem decodeEncodeRoundTrip : Obligations.DecodeEncodeRoundTrip := fun i hi =>
  (decode_eq_ok_iff_encode (encode i) i).mpr ⟨hi, rfl⟩

/-- Settles O2: the same equivalence, read in the other direction. -/
theorem decodeAcceptsOnlyEncodings : Obligations.DecodeAcceptsOnlyEncodings := fun v i =>
  (decode_eq_ok_iff_encode v i).mp

/-- Settles O3: each word is the one that `encode` computes for its command. -/
theorem writtenOutWordsDecode : Obligations.WrittenOutWordsDecode := by
  simp only [Obligations.WrittenOutWordsDecode, decode_eq_ok_iff_encode]
  decide

/-! ### Words that are no command (R86) -/

/-- Settles O4: a word that decodes has an assigned opcode, RSV = 0, and 0 in the fields its class does not use. -/
theorem illegalWordsRaiseIllegalCommand : Obligations.IllegalWordsRaiseIllegalCommand := by
  intro v s hbad
  rcases runCommand_cases v s with ⟨j, hd, -⟩ | ⟨-, -, hrun⟩
  · exfalso
    obtain ⟨hop, hr, hk, hres⟩ := (decode_eq_ok_iff v j).mp hd
    have hassigned := op_assigned j
    rw [← hop] at hassigned
    rcases hbad with h | h | h | h | h | h | ⟨i, hi, hfields⟩
    · omega
    · omega
    · omega
    · omega
    · omega
    · exact h hres
    · have hcls : i.cls = j.cls := cls_eq_of_op_eq (hi.symm.trans hop)
      have hr0 : i.cls ≠ .r → roundField v = 0 := fun hc =>
        BitVec.eq_of_toNat_eq (hr.trans (round_eq_zero (hcls ▸ hc)))
      have hk0 : i.cls ≠ .k → keySelField v = 0 := fun hc => by rw [hk, ksel_eq_a (hcls ▸ hc)]; rfl
      rcases hfields with ⟨hc, h | h⟩ | ⟨hc, h⟩ | ⟨hc, h⟩
      · exact h (hr0 (by simp [hc]))
      · exact h (hk0 (by simp [hc]))
      · exact h (hk0 (by simp [hc]))
      · exact h (hr0 (by simp [hc]))
  · exact hrun

/-! ### The round-key commands (R87, R179) -/

/-- R87: the six class R commands with the round index `r`. -/
def roundKeyCommands (r : Nat) : List Instr := [.addrk r, .addrkt r, .eround r, .efinal r, .dround r, .dinit r]

theorem round_of_mem_roundKeyCommands {r : Nat} {i : Instr} (h : i ∈ roundKeyCommands r) : i.round = r := by
  simp only [roundKeyCommands, List.mem_cons, List.not_mem_nil, or_false] at h
  rcases h with rfl | rfl | rfl | rfl | rfl | rfl <;> rfl

/-- R186 to R191: each of them is the round-key check and then some change of BLK. -/
theorem exec_of_mem_roundKeyCommands {r : Nat} {i : Instr} (h : i ∈ roundKeyCommands r) (s : State) :
    ∃ f, exec i s = withRoundKey r f s := by
  simp only [roundKeyCommands, List.mem_cons, List.not_mem_nil, or_false] at h
  rcases h with rfl | rfl | rfl | rfl | rfl | rfl <;>
    simp only [exec, execAddrk, execAddrkt, execEround, execEfinal, execDround, execDinit] <;> exact ⟨_, rfl⟩

/-- Settles O41: the word decodes by O1, and R179's check has three outcomes, of which each hypothesis leaves one. -/
theorem roundKeyCheckOrder : Obligations.RoundKeyCheckOrder := by
  intro s r i hr hi
  obtain ⟨f, hf⟩ := exec_of_mem_roundKeyCommands hi s
  have hwf : i.WellFormed = true := (wellFormed_iff i).mpr ((round_of_mem_roundKeyCommands hi).trans_le hr)
  rw [hf]
  refine ⟨decodeEncodeRoundTrip i hwf, fun h10 => ?_, fun h10 hv => ?_⟩
  · rcases withRoundKey_cases r f s with ⟨-, h⟩ | ⟨hle, -⟩ | ⟨hle, -⟩
    · exact h
    · omega
    · omega
  · rcases withRoundKey_cases r f s with ⟨hlt, -⟩ | ⟨-, -, h⟩ | ⟨-, hv', -⟩
    · omega
    · exact h
    · simp [hv] at hv'

end Sys2Proof
end

section
/-! PROOFS. The codec laws: Parse reads back the text that Format writes (R113). -/

namespace Sys2Proof

open Sys2Proof.Machine

theorem isGroup_of_isPart_hexCharacters {x : Text} (h : IsPart (· ∈ hexCharacters) 4 x) : IsGroup x := by
  have hhex : ∀ c ∈ hexCharacters, isHexDigit c = true := by decide
  obtain ⟨h1, h4, hx⟩ := h
  exact ⟨h1, h4, fun c hc => hhex c (hx c hc)⟩

/-- R104, R106: a group reads back as the number that it spells. -/
theorem hexValue_hex4 {n : Nat} (h : n < 65536) : hexValue (hex4 n) = n := by
  unfold hex4 hexValue
  (repeat' split) <;> simp (disch := omega) only [List.foldl_cons, List.foldl_nil, hexVal_nib, Option.getD_some] <;> omega

theorem map_hexValue_hex4_groupsOf (b : Block) : ((groupsOf b).map hex4).map hexValue = groupsOf b := by
  rw [groupsOf_eq, List.map_map, List.map_map]
  exact List.map_congr_left fun k _ => hexValue_hex4 (blockGroup_lt b k)

/-- R106: the groups of a block are those before its longest zero run, the zeros of the run, and those after it. -/
theorem groupsOf_eq_append_longestRun (b : Block) :
    groupsOf b = (groupsOf b).take (longestRun b).1 ++ List.replicate (longestRun b).2 0 ++
      (groupsOf b).drop ((longestRun b).1 + (longestRun b).2) := by
  obtain ⟨hbound, hzero⟩ := (zeroRun_iff b _ _).mp (zeroRun_longestRun b)
  have hrun : ((groupsOf b).drop (longestRun b).1).take (longestRun b).2 = List.replicate (longestRun b).2 0 := by
    refine List.ext_getElem (by simp [length_groupsOf]; omega) fun k h1 h2 => ?_
    obtain ⟨_, hget⟩ := List.getElem?_eq_some_iff.mp (hzero k (by simpa using h2))
    simpa using hget
  rw [← hrun, List.append_assoc, ← List.drop_drop, List.take_append_drop, List.take_append_drop]

/-- R104, R106: IPv6 text that Format writes has the block's eight groups. -/
theorem format_isExpansion {b : Block} (h : ¬ HasMappedPrefix b) : IsExpansion (format b) ((groupsOf b).map hex4) := by
  refine ⟨fun x hx => isGroup_of_isPart_hexCharacters (isPart_of_mem_groups (List.Subset.refl _) x hx),
    by simp [length_groupsOf], ?_⟩
  rcases Nat.lt_or_ge (longestRun b).2 2 with hlen | hlen
  · exact .inl (format_of_short_run h hlen)
  · refine .inr ⟨_, _, (longestRun b).2 - 1, ?_, format_of_long_run h hlen⟩
    rw [Nat.sub_add_cancel (by omega)]
    conv_lhs => rw [groupsOf_eq_append_longestRun b]
    simp only [List.map_append, List.map_replicate]
    rfl

theorem parse_format (b : Block) : parse (format b) = some b := by
  refine (parseWrittenOut (format b) b).mpr ?_
  by_cases h : HasMappedPrefix b
  · exact .inl ⟨h, (format_of_mapped h).trans (dottedText_eq_format4 b).symm⟩
  · refine .inr (.inl ((isV6Text_iff _ b).mpr ⟨_, format_isExpansion h, ?_⟩))
    rw [map_hexValue_hex4_groupsOf, groupsOf_eq]

/-- Settles O32: the text of a block is in the grammar, dotted or with the block's eight groups. -/
theorem codecLaws : Obligations.CodecLaws := by
  refine ⟨parse_format, fun t b _ => ⟨b, parse_format b, rfl⟩, Bytes.fill 16 (mappedPrefix ++ [1, 2, 3, 4]), ?_⟩
  decide +kernel

end Sys2Proof
end

section
/-! PROOFS. Hex text: Unhex accepts the pairs of hex digits, one pair a byte, and reads back what Hex writes (R107, R108). -/

namespace Sys2Proof

open Sys2Proof.Machine

/-- R107: the two characters of each byte, the high nibble first. -/
theorem getElem?_hex {d : List Byte} {i : Nat} {x : Byte} (h : d[i]? = some x) :
    (hex d)[2 * i]? = hexCharacters[x.toNat / 16]? ∧ (hex d)[2 * i + 1]? = hexCharacters[x.toNat % 16]? := by
  induction d generalizing i with
  | nil => simp at h
  | cons y ys ih =>
    cases i with
    | zero =>
      obtain rfl : y = x := by simpa using h
      have hy := y.isLt
      simp [getElem?_hexCharacters _ (show y.toNat / 16 < 16 by omega),
        getElem?_hexCharacters _ (show y.toNat % 16 < 16 by omega)]
    | succ i => simpa [Nat.mul_add] using ih (by simpa using h)

theorem lt_of_hexDigitIs {c : Byte} {x : Nat} (h : HexDigitIs c x) : x < 16 := by
  rcases h with h | h <;> exact (List.getElem?_eq_some_iff.mp h).1

/-- R108: the characters `c` and `d` are hex digits, and `x` is the byte that they spell. -/
def IsHexPair (c d x : Byte) : Prop := ∃ h l, HexDigitIs c h ∧ HexDigitIs d l ∧ x.toNat = 16 * h + l

/-- R108: Unhex reads a pair of digits as a byte. -/
theorem unhex_cons_cons_eq_some_iff (c d : Byte) (t : Text) (e : List Byte) :
    unhex (c :: d :: t) = some e ↔ ∃ x e', IsHexPair c d x ∧ unhex t = some e' ∧ e = x :: e' := by
  simp only [IsHexPair, ← hexVal_eq_some_iff]
  constructor
  · intro h
    unfold unhex at h
    split at h
    case h_2 => cases h
    case h_1 x y e' hx hy he =>
    have hx16 := lt_of_hexDigitIs ((hexVal_eq_some_iff c x).mp hx)
    have hy16 := lt_of_hexDigitIs ((hexVal_eq_some_iff d y).mp hy)
    exact ⟨_, e', ⟨x, y, hx, hy, by rw [BitVec.toNat_ofNat, Nat.mod_eq_of_lt (by omega)]⟩, he, (Option.some.inj h).symm⟩
  · rintro ⟨x, e', ⟨h, l, hc, hd, hx⟩, he, rfl⟩
    simp [unhex, hc, hd, he, ← hx]

/-- R107, R108: Unhex undoes Hex. -/
theorem unhex_hex (d : List Byte) : unhex (hex d) = some d := by
  induction d with
  | nil => rfl
  | cons x d ih =>
    have hx := x.isLt
    rw [hex_cons, unhex_cons_cons_eq_some_iff]
    refine ⟨x, d, ⟨x.toNat / 16, x.toNat % 16, ?_, ?_, by omega⟩, ih, rfl⟩
    · exact .inl (getElem?_hexCharacters _ (by omega))
    · exact .inl (getElem?_hexCharacters _ (by omega))

/-- R108: a text that Unhex accepts has only hex digits. -/
theorem hexDigitIs_of_mem_unhex {t : Text} {e : List Byte} (h : unhex t = some e) : ∀ c ∈ t, ∃ x, HexDigitIs c x := by
  induction t using List.twoStepInduction generalizing e with
  | nil => simp
  | singleton c => cases h
  | cons_cons c d t ih _ =>
    obtain ⟨x, e', ⟨hi, lo, hc, hd, -⟩, he, -⟩ := (unhex_cons_cons_eq_some_iff c d t e).mp h
    simp only [List.forall_mem_cons]
    exact ⟨⟨hi, hc⟩, ⟨lo, hd⟩, ih he⟩

/-- R108: each byte is spelled by its two characters. -/
def SpellsBytes (t : Text) (e : List Byte) : Prop :=
  t.length = 2 * e.length ∧ ∀ i x, e[i]? = some x →
    ∃ c d h l, t[2 * i]? = some c ∧ t[2 * i + 1]? = some d ∧ HexDigitIs c h ∧ HexDigitIs d l ∧ x.toNat = 16 * h + l

theorem spellsBytes_cons_cons (c d x : Byte) (t : Text) (e : List Byte) :
    SpellsBytes (c :: d :: t) (x :: e) ↔ IsHexPair c d x ∧ SpellsBytes t e := by
  have hlen : (c :: d :: t).length = 2 * (x :: e).length ↔ t.length = 2 * e.length := by
    simp only [List.length_cons]
    omega
  rw [SpellsBytes, SpellsBytes, hlen, and_left_comm]
  refine and_congr_right fun _ => ⟨fun h => ⟨?_, fun i y hy => ?_⟩, fun ⟨⟨hi, lo, hc, hd, hx⟩, h⟩ i y hy => ?_⟩
  · obtain ⟨_, _, hi, lo, hc, hd, hpair⟩ := h 0 x rfl
    cases hc
    cases hd
    exact ⟨hi, lo, hpair⟩
  · simpa [Nat.mul_add] using h (i + 1) y (by simpa using hy)
  · cases i with
    | zero =>
      obtain rfl : x = y := by simpa using hy
      exact ⟨c, d, hi, lo, rfl, rfl, hc, hd, hx⟩
    | succ i => simpa [Nat.mul_add] using h i y (by simpa using hy)

/-- R108: what Unhex answers, by index. -/
theorem unhex_eq_some_iff (t : Text) (e : List Byte) : unhex t = some e ↔ SpellsBytes t e := by
  induction t using List.twoStepInduction generalizing e with
  | nil =>
    cases e with
    | nil => simp [unhex, SpellsBytes]
    | cons x e => simp [unhex, SpellsBytes]
  | singleton c =>
    refine iff_of_false (by simp [unhex]) fun ⟨hlen, _⟩ => ?_
    rw [List.length_singleton] at hlen
    omega
  | cons_cons c d t ih _ =>
    rw [unhex_cons_cons_eq_some_iff]
    cases e with
    | nil => simp [SpellsBytes]
    | cons x e =>
      rw [spellsBytes_cons_cons, ← ih]
      simp

end Sys2Proof
end

section
/-! PROOFS. The address codec commands PARSE, FORMAT, HEXENC and HEXDEC (R109 to R112). -/

namespace Sys2Proof.Machine

/-! ### The inputs and outputs in the buffers (R28, R29) -/

theorem toNat_setText_alen (s : State) {t : Text} (h : t.length ≤ 64) : (s.setText t).alen.toNat = t.length := by
  rw [State.setText_alen, BitVec.toNat_ofNat, Nat.mod_eq_of_lt (by omega)]

/-- R28: a text written to ABUF is the text read from it. -/
theorem text_setText (s : State) {t : Text} (h : t.length ≤ 64) : (s.setText t).text = t := by
  rw [State.text, toNat_setText_alen s h, State.setText_abuf, Bytes.firstBytes_fill 64 t h]

/-- R28, R29: a buffer holds zeros after the bytes that were written to it. -/
theorem byteAt_fill_of_length_le {n i : Nat} {l : List Byte} (h : l.length ≤ i) : (Bytes.fill n l).byteAt i = 0 := by
  rcases Nat.lt_or_ge i n with hi | hi
  · rw [Bytes.byteAt_fill n l i hi, List.getD_eq_default l 0 h]
  · exact Bytes.byteAt_ge _ hi

theorem length_format_le (b : Block) : (format b).length ≤ 64 := (formatOutputShape b).2.1.trans (by decide)

theorem length_data {s : State} (h : s.dlen.toNat ≤ 32) : s.data.length = s.dlen.toNat := by
  simp [State.data, h]

theorem length_text {s : State} (h : s.alen.toNat ≤ 64) : s.text.length = s.alen.toNat := by
  simp [State.text, h]

/-! ### PARSE and FORMAT -/

/-- R109: the two outcomes of PARSE. -/
theorem exec_parse (s : State) :
    exec .parse s = (addressInput s).elim (.next (s.setErr .invalidAddress)) fun b => .next ((s.setBlk b).setErr .ok) := by
  simp only [exec, execParse]
  cases addressInput s <;> rfl

theorem addressInput_eq_some_iff (s : State) (b : Block) :
    addressInput s = some b ↔ s.alen.toNat ≤ 64 ∧ Sys2Proof.parse s.text = some b := by
  simp [addressInput]

theorem addressInput_eq_none_iff (s : State) :
    addressInput s = none ↔ s.alen.toNat > 64 ∨ Sys2Proof.parse s.text = none := by
  simp [addressInput, Decidable.or_iff_not_imp_left]

/-- Settles O43: the address input of PARSE is the block of a text that fits and parses, and else there is none. -/
theorem parseWritesBlk : Obligations.ParseWritesBlk := by
  refine ⟨by decide, fun s => ⟨fun b hle hb => ?_, fun h => ?_⟩⟩
  · rw [exec_parse, (addressInput_eq_some_iff s b).mpr ⟨hle, hb⟩]
    rfl
  · rw [exec_parse, (addressInput_eq_none_iff s).mpr h]
    rfl

theorem exec_format (s : State) : exec .format s = .next ((s.setText (format s.blk)).setErr .ok) := rfl

/-- Settles O44: the text fits ABUF, so it is what ABUF's first ALEN bytes hold. -/
theorem formatWritesText : Obligations.FormatWritesText := by
  refine ⟨by decide, fun s => ⟨_, exec_format s, ?_⟩⟩
  have hlen := toNat_setText_alen s (length_format_le s.blk)
  refine ⟨text_setText s (length_format_le s.blk), hlen, fun i hi => ?_, rfl⟩
  rw [State.setErr_alen, hlen] at hi
  exact byteAt_fill_of_length_le hi

/-! ### HEXENC and HEXDEC -/

theorem exec_hexenc_of_le {s : State} (h : s.dlen.toNat ≤ 32) :
    exec .hexenc s = .next ((s.setText (hex s.data)).setErr .ok) :=
  if_neg (Nat.not_lt.mpr h)

/-- R112: the two outcomes of HEXDEC after the test of the length. -/
theorem exec_hexdec_of_even {s : State} (hle : s.alen.toNat ≤ 64) (heven : s.alen.toNat % 2 = 0) :
    exec .hexdec s = (unhex s.text).elim (.next (s.setErr .invalidHex)) fun e => .next ((s.setData e).setErr .ok) := by
  have hlen : ¬ (s.alen.toNat > 64 ∨ s.alen.toNat % 2 = 1) := by omega
  simp only [exec, execHexdec, if_neg hlen]
  cases unhex s.text <;> rfl

/-- Settles O45: Hex and Unhex by index, and the outcomes of the two commands by the tests of their lengths. -/
theorem hexCommandResults : Obligations.HexCommandResults := by
  refine ⟨by decide, by decide, fun d => ⟨length_hex d, fun i x h => getElem?_hex h⟩, fun t _ =>
    ⟨unhex_eq_some_iff t, fun ⟨c, hc, hno⟩ => ?_⟩, fun s => ⟨fun h => ?_, fun h => ?_, fun e hle heven he => ?_,
    fun h => ?_, fun hle heven he => ?_⟩⟩
  · refine Option.eq_none_iff_forall_ne_some.mpr fun e he => ?_
    obtain ⟨x, hx⟩ := hexDigitIs_of_mem_unhex he c hc
    exact hno x hx
  · have hlen : (hex s.data).length = 2 * s.dlen.toNat := by rw [length_hex, length_data h]
    rw [exec_hexenc_of_le h, ← hlen]
    rfl
  · exact if_pos h
  · have hlen : e.length = s.alen.toNat / 2 := by
      have htext : s.text.length = 2 * e.length := length_unhex he
      rw [length_text hle] at htext
      omega
    rw [exec_hexdec_of_even hle heven, State.text, Bytes.firstBytes, he, ← hlen]
    rfl
  · exact if_pos h
  · rw [exec_hexdec_of_even hle heven, State.text, Bytes.firstBytes, he]
    rfl

/-- Settles O35: HEXDEC reads the text that HEXENC wrote, and Unhex undoes Hex. -/
theorem hexdecUndoesHexenc : Obligations.HexdecUndoesHexenc := by
  intro s h
  have hlen : (hex s.data).length ≤ 64 := by
    rw [length_hex, length_data h]
    omega
  have halen : ((s.setText (hex s.data)).setErr .ok).alen.toNat = 2 * s.data.length := by
    rw [State.setErr_alen, toNat_setText_alen s hlen, length_hex]
  have hunhex : unhex ((s.setText (hex s.data)).setErr .ok).text = some s.data := by
    rw [State.setErr_text, text_setText s hlen, unhex_hex]
  have hdec : exec .hexdec ((s.setText (hex s.data)).setErr .ok) =
      .next ((((s.setText (hex s.data)).setErr .ok).setData s.data).setErr .ok) := by
    rw [exec_hexdec_of_even (by rwa [halen, ← length_hex]) (by rw [halen, Nat.mul_mod_right]), hunhex]
    rfl
  refine ⟨_, _, exec_hexenc_of_le h, hdec, ?_, rfl, rfl⟩
  rw [State.setErr_dlen, State.setData_dlen, length_data h, BitVec.ofNat_toNat, BitVec.setWidth_eq]

end Sys2Proof.Machine
end

section
/-! PROOFS. The field GF(2^8) and the constant tables (R141 to R145).

`shiftReduce` is the multiplication by the field element x. It is additive, `gmul` is additive in both arguments and
commutes with it, and every byte is built from 0x01 by `shiftReduce` and XOR; so a law of `gmul` needs to be seen for the
first argument 0x01 only. -/

namespace Sys2Proof

/-! ### One shift-and-reduce -/

theorem shiftReduce_eq_xor (a : Byte) : shiftReduce a = a <<< 1 ^^^ (if a.getLsbD 7 then 0x1b else 0) := by
  unfold shiftReduce
  split <;> simp

theorem shiftReduce_zero : shiftReduce 0 = 0 := rfl

theorem shiftReduce_xor (a b : Byte) : shiftReduce (a ^^^ b) = shiftReduce a ^^^ shiftReduce b := by
  have htop : (if (a ^^^ b).getLsbD 7 then (0x1b : Byte) else 0) =
      (if a.getLsbD 7 then 0x1b else 0) ^^^ (if b.getLsbD 7 then 0x1b else 0) := by
    rw [BitVec.getLsbD_xor]
    cases a.getLsbD 7 <;> cases b.getLsbD 7 <;> rfl
  rw [shiftReduce_eq_xor, shiftReduce_eq_xor, shiftReduce_eq_xor, htop, BitVec.shiftLeft_xor_distrib]
  ac_rfl

/-- The byte without its low bit is the shifted half, as the bit that `shiftReduce` reduces by is clear in the half. -/
theorem eq_shiftReduce_half_xor (a : Byte) : a = shiftReduce (a >>> 1) ^^^ (if a.getLsbD 0 then 1 else 0) := by
  revert a
  decide +kernel

/-- Every byte is built from 0x01 by the multiplication by x and XOR. -/
theorem byte_induction {P : Byte → Prop} (zero : P 0) (one : P 1) (shift : ∀ a, P a → P (shiftReduce a))
    (xor : ∀ a b, P a → P b → P (a ^^^ b)) (a : Byte) : P a := by
  induction hn : a.toNat using Nat.strong_induction_on generalizing a with
  | h n ih =>
    by_cases ha : a = 0
    · exact ha ▸ zero
    · have hpos : a.toNat ≠ 0 := fun h => ha (BitVec.eq_of_toNat_eq h)
      have hlt : (a >>> 1).toNat < n := by
        rw [BitVec.toNat_ushiftRight, Nat.shiftRight_one]
        omega
      rw [eq_shiftReduce_half_xor a]
      refine xor _ _ (shift _ (ih _ hlt _ rfl)) ?_
      split
      · exact one
      · exact zero

/-! ### The loop of `gmul` -/

theorem gmulLoop_xor_left (n : Nat) (a a' b p p' : Byte) :
    gmulLoop n (a ^^^ a') b (p ^^^ p') = gmulLoop n a b p ^^^ gmulLoop n a' b p' := by
  induction n generalizing a a' b p p' with
  | zero => rfl
  | succ n ih =>
    have hacc : (if b.getLsbD 0 then p ^^^ p' ^^^ (a ^^^ a') else p ^^^ p') =
        (if b.getLsbD 0 then p ^^^ a else p) ^^^ (if b.getLsbD 0 then p' ^^^ a' else p') := by
      cases b.getLsbD 0
      · rfl
      · show p ^^^ p' ^^^ (a ^^^ a') = (p ^^^ a) ^^^ (p' ^^^ a')
        ac_rfl
    rw [gmulLoop, gmulLoop, gmulLoop, shiftReduce_xor, hacc, ih]

theorem gmulLoop_xor_right (n : Nat) (a b b' p p' : Byte) :
    gmulLoop n a (b ^^^ b') (p ^^^ p') = gmulLoop n a b p ^^^ gmulLoop n a b' p' := by
  induction n generalizing a b b' p p' with
  | zero => rfl
  | succ n ih =>
    have hacc : (if (b ^^^ b').getLsbD 0 then p ^^^ p' ^^^ a else p ^^^ p') =
        (if b.getLsbD 0 then p ^^^ a else p) ^^^ (if b'.getLsbD 0 then p' ^^^ a else p') := by
      rw [BitVec.getLsbD_xor]
      cases b.getLsbD 0 <;> cases b'.getLsbD 0
      · rfl
      · exact BitVec.xor_assoc p p' a
      · show p ^^^ p' ^^^ a = (p ^^^ a) ^^^ p'
        ac_rfl
      · show p ^^^ p' = (p ^^^ a) ^^^ (p' ^^^ a)
        rw [BitVec.xor_comm p' a, ← BitVec.xor_assoc, BitVec.xor_assoc p a a, BitVec.xor_self, BitVec.xor_zero]
    rw [gmulLoop, gmulLoop, gmulLoop, BitVec.ushiftRight_xor_distrib, hacc, ih]

theorem gmulLoop_shiftReduce (n : Nat) (a b p : Byte) :
    gmulLoop n (shiftReduce a) b (shiftReduce p) = shiftReduce (gmulLoop n a b p) := by
  induction n generalizing a b p with
  | zero => rfl
  | succ n ih =>
    have hacc : (if b.getLsbD 0 then shiftReduce p ^^^ shiftReduce a else shiftReduce p) =
        shiftReduce (if b.getLsbD 0 then p ^^^ a else p) := by
      rw [← shiftReduce_xor, apply_ite shiftReduce]
    rw [gmulLoop, gmulLoop, hacc, ih]

/-! ### The laws of `gmul` (R141) -/

theorem gmul_xor_left (a b c : Byte) : gmul (a ^^^ b) c = gmul a c ^^^ gmul b c :=
  gmulLoop_xor_left 8 a b c 0 0

theorem gmul_xor_right (a b c : Byte) : gmul a (b ^^^ c) = gmul a b ^^^ gmul a c :=
  gmulLoop_xor_right 8 a b c 0 0

theorem shiftReduce_gmul (a b : Byte) : gmul (shiftReduce a) b = shiftReduce (gmul a b) :=
  gmulLoop_shiftReduce 8 a b 0

@[simp] theorem gmul_zero (a : Byte) : gmul a 0 = 0 := by
  have h := gmul_xor_right a 0 0
  rwa [BitVec.xor_self, BitVec.xor_self] at h

@[simp] theorem zero_gmul (a : Byte) : gmul 0 a = 0 := by
  have h := gmul_xor_left 0 0 a
  rwa [BitVec.xor_self, BitVec.xor_self] at h

@[simp] theorem one_gmul (a : Byte) : gmul 1 a = a := by
  revert a
  decide +kernel

@[simp] theorem gmul_one (a : Byte) : gmul a 1 = a := by
  induction a using byte_induction with
  | zero => rfl
  | one => rfl
  | shift a ih => rw [shiftReduce_gmul, ih]
  | xor a b iha ihb => rw [gmul_xor_left, iha, ihb]

theorem gmul_shiftReduce (a b : Byte) : gmul a (shiftReduce b) = shiftReduce (gmul a b) := by
  induction a using byte_induction with
  | zero => rw [zero_gmul, zero_gmul, shiftReduce_zero]
  | one => rw [one_gmul, one_gmul]
  | shift a ih => rw [shiftReduce_gmul, shiftReduce_gmul, ih]
  | xor a a' iha iha' => rw [gmul_xor_left, gmul_xor_left, shiftReduce_xor, iha, iha']

theorem gmul_comm (a b : Byte) : gmul a b = gmul b a := by
  induction a using byte_induction with
  | zero => rw [zero_gmul, gmul_zero]
  | one => rw [one_gmul, gmul_one]
  | shift a ih => rw [shiftReduce_gmul, gmul_shiftReduce, ih]
  | xor a a' iha iha' => rw [gmul_xor_left, gmul_xor_right, iha, iha']

theorem gmul_assoc (a b c : Byte) : gmul (gmul a b) c = gmul a (gmul b c) := by
  induction a using byte_induction with
  | zero => rw [zero_gmul, zero_gmul, zero_gmul]
  | one => rw [one_gmul, one_gmul]
  | shift a ih => rw [shiftReduce_gmul, shiftReduce_gmul, shiftReduce_gmul, ih]
  | xor a a' iha iha' => rw [gmul_xor_left, gmul_xor_left, gmul_xor_left, iha, iha']

/-- Settles O21: each law by induction on how the first byte is built from 0x01. -/
theorem gmulFieldLaws : Obligations.GmulFieldLaws :=
  ⟨gmul_comm, gmul_assoc, gmul_xor_right, fun a => ⟨gmul_one a, gmul_zero a⟩⟩

/-! ### The S-box and its inverse (R143, R144) -/

/-- R143: the affine map of the S-box. -/
def affine (y : Byte) : Byte :=
  y ^^^ y.rotateLeft 1 ^^^ y.rotateLeft 2 ^^^ y.rotateLeft 3 ^^^ y.rotateLeft 4 ^^^ 0x63

/-- The inverse of the affine map, `affine_affineInverse`. -/
def affineInverse (z : Byte) : Byte := z.rotateLeft 1 ^^^ z.rotateLeft 3 ^^^ z.rotateLeft 6 ^^^ 0x05

theorem affine_affineInverse : ∀ z : Byte, affine (affineInverse z) = z := by decide +kernel

/-- R143: the field inverse of a byte, read off the S-box through the inverse of the affine map. -/
def fieldInverse (a : Byte) : Byte := affineInverse (sbox a)

theorem fieldInverse_zero : fieldInverse 0 = 0 := by decide

theorem gmul_fieldInverse : ∀ a : Byte, a ≠ 0 → gmul a (fieldInverse a) = 1 := by decide +kernel

theorem invSbox_sbox : ∀ a : Byte, invSbox (sbox a) = a := by decide +kernel

theorem sbox_invSbox : ∀ a : Byte, sbox (invSbox a) = a := by decide +kernel

/-- Settles O22: the inverse of the affine map reads the field inverses off the table. -/
theorem sboxIsAffineMapOfInverse : Obligations.SboxIsAffineMapOfInverse := by
  refine ⟨fun x => ⟨fieldInverse x, ?_, (affine_affineInverse (sbox x)).symm⟩, fun x => ⟨invSbox_sbox x, sbox_invSbox x⟩⟩
  by_cases hx : x = 0
  · exact .inl ⟨hx, hx ▸ fieldInverse_zero⟩
  · exact .inr (gmul_fieldInverse x hx)

/-! ### The round constants (R145) -/

/-- Settles O23: the nine steps of the recurrence, each evaluated. -/
theorem roundConstantRecurrence : Obligations.RoundConstantRecurrence := by
  refine ⟨rfl, fun j h1 h9 => ?_, by decide⟩
  interval_cases j <;> rfl

end Sys2Proof
end

section
/-! PROOFS. The key schedule and the command KEYEXP (R146 to R148). -/

namespace Sys2Proof

open Sys2Proof.Machine

/-! ### The words of the expansion (R147) -/

/-- R147: the recurrence of the words, in the list that `expandFrom` continues. -/
theorem getD_expandFrom (n i : Nat) (a b c d : KeyWord) {m : Nat} (hm : m < n) :
    (a :: b :: c :: d :: expandFrom n i a b c d).getD (m + 4) (zeros 4) =
      nextKeyWord (i + m) ((a :: b :: c :: d :: expandFrom n i a b c d).getD m (zeros 4))
        ((a :: b :: c :: d :: expandFrom n i a b c d).getD (m + 3) (zeros 4)) := by
  induction n generalizing i a b c d m with
  | zero => exact absurd hm (Nat.not_lt_zero m)
  | succ n ih =>
    cases m with
    | zero => rfl
    | succ m =>
      have h := ih (i + 1) b c d (nextKeyWord i a d) (Nat.lt_of_succ_lt_succ hm)
      rwa [Nat.add_right_comm i 1 m] at h

/-- R147: word `i` of the expansion of `k`. -/
def keyWord (k : Block) (i : Nat) : KeyWord := (keyWords k).getD i (zeros 4)

theorem keyWord_of_lt_four (k : Block) {i : Nat} (h : i < 4) : keyWord k i = k.slice (4 * i) 4 := by
  interval_cases i <;> rfl

theorem keyWord_eq_nextKeyWord (k : Block) {i : Nat} (h4 : 4 ≤ i) (h43 : i ≤ 43) :
    keyWord k i = nextKeyWord i (keyWord k (i - 4)) (keyWord k (i - 1)) := by
  obtain ⟨m, rfl⟩ := Nat.exists_eq_add_of_le' h4
  have h := getD_expandFrom 40 4 (k.slice 0 4) (k.slice 4 4) (k.slice 8 4) (k.slice 12 4) (m := m) (by omega)
  rwa [Nat.add_comm 4 m] at h

/-- R147: word `i` is at bytes `4i` to `4i + 3` of the schedule. -/
theorem byteAt_keyExpand (k : Block) {i j : Nat} (hi : i ≤ 43) (hj : j < 4) :
    (keyExpand k).byteAt (4 * i + j) = (keyWord k i).byteAt j := by
  have hdiv : (4 * i + j) / 4 = i := by omega
  have hmod : (4 * i + j) % 4 = j := by omega
  rw [keyExpand, Bytes.byteAt_build_lt _ (by omega), hdiv, hmod, keyWord]

/-! ### The transform of a word (R146) -/

theorem byteAt_rconStep_subWord_rotWord (r : Nat) (w : KeyWord) {j : Nat} (hj : j < 4) :
    (rconStep r (subWord (rotWord w))).byteAt j =
      sbox (w.byteAt ((j + 1) % 4)) ^^^ (if j = 0 then rcon r else 0) := by
  have hsub {l : Nat} (hl : l < 4) : (subWord (rotWord w)).byteAt l = sbox (w.byteAt ((l + 1) % 4)) := by
    rw [subWord, Bytes.byteAt_build_lt _ hl, rotWord, Bytes.byteAt_build_lt _ hl]
  rw [rconStep, Bytes.byteAt_build_lt _ hj]
  split
  · next h => rw [h, hsub (by decide)]
  · rw [hsub hj]
    exact BitVec.xor_zero.symm

theorem byteAt_nextKeyWord (i : Nat) (back4 back1 : KeyWord) {j : Nat} (hj : j < 4) :
    (nextKeyWord i back4 back1).byteAt j = back4.byteAt j ^^^
      (if i % 4 = 0 then sbox (back1.byteAt ((j + 1) % 4)) ^^^ (if j = 0 then rcon (i / 4) else 0)
      else back1.byteAt j) := by
  rw [nextKeyWord, Bytes.byteAt_xor]
  split
  · rw [byteAt_rconStep_subWord_rotWord _ _ hj]
  · rfl

/-! ### The schedule -/

/-- R147: the first four words are the key. -/
theorem byteAt_keyExpand_of_lt (k : Block) {j : Nat} (hj : j < 16) : (keyExpand k).byteAt j = k.byteAt j := by
  have h := byteAt_keyExpand k (i := j / 4) (j := j % 4) (by omega) (by omega)
  rwa [keyWord_of_lt_four k (by omega), Bytes.byteAt_slice _ _ _ _ (by omega), Nat.div_add_mod] at h

/-- Settles O24: the recurrence of the words, read at one byte of the schedule. -/
theorem keyExpansionRecurrence : Obligations.KeyExpansionRecurrence := by
  intro k
  refine ⟨fun j hj => byteAt_keyExpand_of_lt k hj, fun i j h4 h43 hj => ?_, fun r j _ hj => ?_⟩
  · rw [byteAt_keyExpand k h43 hj, byteAt_keyExpand k (by omega) hj, byteAt_keyExpand k (by omega) (Nat.mod_lt _ (by decide)),
      byteAt_keyExpand k (by omega) hj, keyWord_eq_nextKeyWord k h4 h43, byteAt_nextKeyWord _ _ _ hj]
  · exact Bytes.byteAt_slice _ _ _ _ hj

/-! ### KEYEXP (R148) -/

theorem exec_keyexp (k : KeySel) (s : State) :
    exec (.keyexp k) s = .next ((s.setSchedule k (keyExpand (s.keyHalf k))).setErr .ok) := rfl

/-- Settles O38: the two halves of KEY are the two cases of the key select. -/
theorem keyexpWritesSchedule : Obligations.KeyexpWritesSchedule := by
  refine ⟨by decide, by decide, fun s => ⟨?_, ?_⟩⟩
  · exact exec_keyexp .a s
  · exact exec_keyexp .b s

end Sys2Proof
end

section
/-! PROOFS. The round transforms on a block, element by element of the state matrix, and their inverse laws (R170 to
R178). Each transform is said once for the element of row `r` and column `c`, byte `r + 4c` (R13); two blocks with the same
elements are equal. -/

namespace Sys2Proof

open Sys2Proof.Machine

/-! ### Elements of the state matrix (R13) -/

theorem block_ext {a b : Block} (h : ∀ r c, r < 4 → c < 4 → a.byteAt (r + 4 * c) = b.byteAt (r + 4 * c)) : a = b :=
  Bytes.ext_byteAt fun i hi => by
    have helem := h (i % 4) (i / 4) (by omega) (by omega)
    rwa [Nat.mod_add_div] at helem

theorem byteAt_build_element (f : Nat → Byte) {r c : Nat} (hr : r < 4) (hc : c < 4) :
    (Bytes.build 16 f).byteAt (r + 4 * c) = f (r + 4 * c) :=
  Bytes.byteAt_build_lt f (by omega)

theorem element_row {r : Nat} (c : Nat) (hr : r < 4) : (r + 4 * c) % 4 = r := by omega

theorem element_column {r : Nat} (c : Nat) (hr : r < 4) : (r + 4 * c) / 4 = c := by omega

/-! ### SubBytes and InvSubBytes (R170, R171) -/

theorem byteAt_subBytes (s : Block) {i : Nat} (hi : i < 16) : (subBytes s).byteAt i = sbox (s.byteAt i) :=
  Bytes.byteAt_build_lt _ hi

theorem byteAt_invSubBytes (s : Block) {i : Nat} (hi : i < 16) : (invSubBytes s).byteAt i = invSbox (s.byteAt i) :=
  Bytes.byteAt_build_lt _ hi

theorem invSubBytes_subBytes (s : Block) : invSubBytes (subBytes s) = s :=
  Bytes.ext_byteAt fun i hi => by rw [byteAt_invSubBytes _ hi, byteAt_subBytes _ hi, invSbox_sbox]

/-! ### ShiftRows and InvShiftRows (R172, R173) -/

theorem byteAt_shiftRows (s : Block) {r c : Nat} (hr : r < 4) (hc : c < 4) :
    (shiftRows s).byteAt (r + 4 * c) = s.byteAt (r + 4 * ((c + r) % 4)) := by
  rw [shiftRows, byteAt_build_element _ hr hc, element_row c hr, element_column c hr]

theorem byteAt_invShiftRows (s : Block) {r c : Nat} (hr : r < 4) (hc : c < 4) :
    (invShiftRows s).byteAt (r + 4 * c) = s.byteAt (r + 4 * ((c + 4 - r) % 4)) := by
  rw [invShiftRows, byteAt_build_element _ hr hc, element_row c hr, element_column c hr]

theorem invShiftRows_shiftRows (s : Block) : invShiftRows (shiftRows s) = s :=
  block_ext fun r c hr hc => by
    have hcol : ((c + 4 - r) % 4 + r) % 4 = c := by omega
    rw [byteAt_invShiftRows _ hr hc, byteAt_shiftRows _ hr (Nat.mod_lt _ (by decide)), hcol]

/-- Settles O25: the element formulas, and the sixteen indices of each permutation evaluated. -/
theorem shiftRowsMovesRows : Obligations.ShiftRowsMovesRows := fun s =>
  ⟨fun _ _ hr hc => byteAt_shiftRows s hr hc, fun _ _ hr hc => byteAt_invShiftRows s hr hc, rfl, rfl⟩

/-! ### The lane-wise transforms commute with the lane permutations (R178) -/

theorem subBytes_shiftRows (s : Block) : subBytes (shiftRows s) = shiftRows (subBytes s) :=
  block_ext fun r c hr hc => by
    rw [byteAt_subBytes _ (by omega), byteAt_shiftRows _ hr hc, byteAt_shiftRows _ hr hc, byteAt_subBytes _ (by omega)]

theorem invSubBytes_invShiftRows (s : Block) : invSubBytes (invShiftRows s) = invShiftRows (invSubBytes s) :=
  block_ext fun r c hr hc => by
    rw [byteAt_invSubBytes _ (by omega), byteAt_invShiftRows _ hr hc, byteAt_invShiftRows _ hr hc,
      byteAt_invSubBytes _ (by omega)]

/-! ### MixColumns and InvMixColumns (R174 to R176) -/

/-- R175, R176: row `r` of the circulant matrix of `row`, times the column `a`. -/
def rowTimesColumn (row : List Byte) (r : Nat) (a : Nat → Byte) : Byte :=
  gmul (circulant row r 0) (a 0) ^^^ gmul (circulant row r 1) (a 1) ^^^ gmul (circulant row r 2) (a 2) ^^^
    gmul (circulant row r 3) (a 3)

theorem rowTimesColumn_congr (row : List Byte) (r : Nat) {a b : Nat → Byte} (h : ∀ j < 4, a j = b j) :
    rowTimesColumn row r a = rowTimesColumn row r b := by
  rw [rowTimesColumn, h 0 (by decide), h 1 (by decide), h 2 (by decide), h 3 (by decide), rowTimesColumn]

theorem byteAt_mixWith (row : List Byte) (s : Block) {r c : Nat} (hr : r < 4) (hc : c < 4) :
    (mixWith row s).byteAt (r + 4 * c) = rowTimesColumn row r fun j => s.byteAt (j + 4 * c) := by
  rw [mixWith, byteAt_build_element _ hr hc, element_row c hr, element_column c hr, rowTimesColumn]

/-- R174, R175: the four rows of the forward matrix; a coefficient 0x01 gives the byte itself. -/
theorem rowTimesColumn_mixRow (a : Nat → Byte) :
    rowTimesColumn mixRow 0 a = gmul 0x02 (a 0) ^^^ gmul 0x03 (a 1) ^^^ a 2 ^^^ a 3 ∧
    rowTimesColumn mixRow 1 a = a 0 ^^^ gmul 0x02 (a 1) ^^^ gmul 0x03 (a 2) ^^^ a 3 ∧
    rowTimesColumn mixRow 2 a = a 0 ^^^ a 1 ^^^ gmul 0x02 (a 2) ^^^ gmul 0x03 (a 3) ∧
    rowTimesColumn mixRow 3 a = gmul 0x03 (a 0) ^^^ a 1 ^^^ a 2 ^^^ gmul 0x02 (a 3) := by
  -- `one_gmul` with the literal in the form in which `simp` leaves the coefficients.
  have hone (b : Byte) : gmul 1#8 b = b := one_gmul b
  simp [rowTimesColumn, circulant, mixRow, hone]

/-- Settles O26: the product of each row with the column, with the row's coefficients read off the circulant matrix. -/
theorem mixColumnsWrittenOut : Obligations.MixColumnsWrittenOut := by
  rintro s c a0 a1 a2 a3 hc rfl rfl rfl rfl
  have hzero (b : Block) : b.byteAt (4 * c) = b.byteAt (0 + 4 * c) := by rw [Nat.zero_add]
  have hmix (r : Nat) (hr : r < 4) := byteAt_mixWith mixRow s hr hc
  have hinv (r : Nat) (hr : r < 4) := byteAt_mixWith invMixRow s hr hc
  obtain ⟨h0, h1, h2, h3⟩ := rowTimesColumn_mixRow fun j => s.byteAt (j + 4 * c)
  rw [hzero s, hzero (mixColumns s), hzero (invMixColumns s)]
  exact ⟨(hmix 0 (by decide)).trans h0, (hmix 1 (by decide)).trans h1, (hmix 2 (by decide)).trans h2,
    (hmix 3 (by decide)).trans h3, hinv 0 (by decide), hinv 1 (by decide), hinv 2 (by decide), hinv 3 (by decide)⟩

/-- A matrix times the product of a matrix and a column is the product of the two matrices times the column. -/
theorem rowTimesColumn_rowTimesColumn (g f : List Byte) (r : Nat) (a : Nat → Byte) :
    rowTimesColumn g r (fun k => rowTimesColumn f k a) =
      gmul (rowTimesColumn g r fun k => circulant f k 0) (a 0) ^^^
      gmul (rowTimesColumn g r fun k => circulant f k 1) (a 1) ^^^
      gmul (rowTimesColumn g r fun k => circulant f k 2) (a 2) ^^^
      gmul (rowTimesColumn g r fun k => circulant f k 3) (a 3) := by
  simp only [rowTimesColumn, gmul_xor_left, gmul_xor_right, gmul_assoc]
  ac_rfl

theorem ite_one_zero_gmul (p : Prop) [Decidable p] (a : Byte) : gmul (if p then 1 else 0) a = if p then a else 0 := by
  split
  · exact one_gmul a
  · exact zero_gmul a

/-- Two coefficient rows whose circulant matrices have the identity as their product undo each other. -/
theorem mixWith_mixWith_of_product_eq_one {g f : List Byte}
    (hone : ∀ r < 4, ∀ j < 4, (rowTimesColumn g r fun k => circulant f k j) = if r = j then 1 else 0) (s : Block) :
    mixWith g (mixWith f s) = s :=
  block_ext fun r c hr hc => by
    rw [byteAt_mixWith g _ hr hc, rowTimesColumn_congr g r fun k hk => byteAt_mixWith f s hk hc,
      rowTimesColumn_rowTimesColumn, hone r hr 0 (by decide), hone r hr 1 (by decide), hone r hr 2 (by decide),
      hone r hr 3 (by decide)]
    simp only [ite_one_zero_gmul]
    interval_cases r <;> simp

theorem invMixColumns_mixColumns (s : Block) : invMixColumns (mixColumns s) = s :=
  mixWith_mixWith_of_product_eq_one (by decide) s

/-! ### The laws (R178) -/

/-- Settles O27: the inverse laws and the two commuting laws, with the XOR of a round key its own inverse. -/
theorem roundTransformInverseLaws : Obligations.RoundTransformInverseLaws := fun s k =>
  ⟨invSubBytes_subBytes s, invShiftRows_shiftRows s, invMixColumns_mixColumns s, Bytes.xor_self_right s k,
    subBytes_shiftRows s, invSubBytes_invShiftRows s⟩

end Sys2Proof
end

section
/-! PROOFS. The primitive commands on BLK: the six transforms, and the six commands that use a round key (R180 to R191). -/

namespace Sys2Proof.Machine

/-- Settles O39: the six words evaluated in the decoder; each command is the template of R180 to R185, `onBlock`. -/
theorem blockTransformsWriteBlk : Obligations.BlockTransformsWriteBlk := by
  refine ⟨by decide, by decide, by decide, by decide, by decide, by decide,
    fun b _ hi => ⟨byteAt_subBytes b hi, byteAt_invSubBytes b hi⟩, fun s => ?_⟩
  exact ⟨onBlock_eq subBytes s, onBlock_eq invSubBytes s, onBlock_eq shiftRows s, onBlock_eq invShiftRows s,
    onBlock_eq mixColumns s, onBlock_eq invMixColumns s⟩

/-- R179: with a legal index and a valid schedule the check of R179 passes. -/
theorem withRoundKey_of_valid {r : Nat} {s : State} (hr : r ≤ 10) (hv : s.rkv = true) (f : Block → Block → Block) :
    withRoundKey r f s = .next ((s.setBlk (f s.blk (roundKeyOf s.rks r))).setErr .ok) := by
  rcases withRoundKey_cases r f s with ⟨hlt, -⟩ | ⟨-, hv', -⟩ | ⟨-, -, h⟩
  · omega
  · simp [hv] at hv'
  · exact h

/-- Settles O40: each command is the round-key check, which passes, and then its change of BLK. -/
theorem roundKeyCommandsWriteBlk : Obligations.RoundKeyCommandsWriteBlk := by
  intro s r hr hv
  simp only [exec, execAddrk, execAddrkt, execEround, execEfinal, execDround, execDinit, withRoundKey_of_valid hr hv]
  exact ⟨rfl, rfl, rfl, rfl, rfl, rfl⟩

end Sys2Proof.Machine
end

section
/-! PROOFS. The full cipher, its KIASU-BC form and XEX: Decrypt and Encrypt undo each other (R200 to R203, R208, R211). Each
step of Decrypt undoes the step of Encrypt that it faces, and the main rounds run in the opposite order. -/

namespace Sys2Proof

open Sys2Proof.Machine

/-! ### The padded tweak (R200) -/

theorem byteAt_pad8 (t : Bytes 8) {i j : Nat} (hi : i < 4) (hj : j < 4) :
    (pad8 t).byteAt (4 * i + j) = if j < 2 then t.byteAt (2 * i + j) else 0 := by
  have hrow : (4 * i + j) % 4 = j := by omega
  have hcol : (4 * i + j) / 4 = i := by omega
  rw [pad8, Bytes.byteAt_build_lt _ (by omega), hrow, hcol]

theorem pad8_zeros : pad8 (zeros 8) = zeros 16 :=
  Bytes.ext_byteAt fun i hi => by rw [pad8, Bytes.byteAt_build_lt _ hi, Bytes.byteAt_zeros, Bytes.byteAt_zeros, ite_self]

/-- Settles O28: the four bytes of group `i`, two from the tweak and two zeros. -/
theorem paddedTweakLayout : Obligations.PaddedTweakLayout := fun t i hi =>
  ⟨byteAt_pad8 t (j := 0) hi (by decide), byteAt_pad8 t (j := 1) hi (by decide), byteAt_pad8 t (j := 2) hi (by decide),
    byteAt_pad8 t (j := 3) hi (by decide)⟩

/-! ### The inverse laws of R178, in the other order -/

theorem subBytes_invSubBytes (s : Block) : subBytes (invSubBytes s) = s :=
  Bytes.ext_byteAt fun i hi => by rw [byteAt_subBytes _ hi, byteAt_invSubBytes _ hi, sbox_invSbox]

theorem shiftRows_invShiftRows (s : Block) : shiftRows (invShiftRows s) = s :=
  block_ext fun r c hr hc => by
    have hcol : ((c + r) % 4 + 4 - r) % 4 = c := by omega
    rw [byteAt_shiftRows _ hr hc, byteAt_invShiftRows _ hr (Nat.mod_lt _ (by decide)), hcol]

theorem mixColumns_invMixColumns (s : Block) : mixColumns (invMixColumns s) = s :=
  mixWith_mixWith_of_product_eq_one (by decide) s

/-- R202, R203: the XOR of a round key and the round tweak undoes itself. -/
theorem addRoundKey_xor_addRoundKey_xor (rk t s : Block) : (addRoundKey ((addRoundKey s rk).xor t) rk).xor t = s := by
  rw [addRoundKey, addRoundKey, Bytes.xor_assoc, Bytes.xor_comm rk t, ← Bytes.xor_assoc, Bytes.xor_self_right,
    Bytes.xor_self_right]

/-! ### The main rounds (R202, R203) -/

theorem decryptRound_encryptRound (rk t s : Block) : decryptRound rk t (encryptRound rk t s) = s := by
  rw [decryptRound, encryptRound, addRoundKey_xor_addRoundKey_xor, invMixColumns_mixColumns, invShiftRows_shiftRows,
    invSubBytes_subBytes]

theorem encryptRound_decryptRound (rk t s : Block) : encryptRound rk t (decryptRound rk t s) = s := by
  rw [decryptRound, encryptRound, subBytes_invSubBytes, shiftRows_invShiftRows, mixColumns_invMixColumns,
    addRoundKey_xor_addRoundKey_xor]

/-- Steps taken in the opposite order undo a run of steps, when each undoes the step of its own index. -/
theorem foldl_reverse_foldl {ι α : Type} {f g : ι → α → α} (h : ∀ r s, g r (f r s) = s) (rs : List ι) (s : α) :
    rs.reverse.foldl (fun s r => g r s) (rs.foldl (fun s r => f r s) s) = s := by
  induction rs generalizing s with
  | nil => rfl
  | cons r rs ih => rw [List.foldl_cons, List.reverse_cons, List.foldl_append, ih, List.foldl_cons, List.foldl_nil, h]

section
variable (rks : Bytes 176) (t : Block)

/-- R203: the main rounds of Decrypt, 9 down to 1, undo those of Encrypt. -/
theorem foldl_decryptRound_foldl_encryptRound (s : Block) :
    [9, 8, 7, 6, 5, 4, 3, 2, 1].foldl (fun s r => decryptRound (roundKeyOf rks r) t s)
      ([1, 2, 3, 4, 5, 6, 7, 8, 9].foldl (fun s r => encryptRound (roundKeyOf rks r) t s) s) = s :=
  foldl_reverse_foldl (f := fun r => encryptRound (roundKeyOf rks r) t) (g := fun r => decryptRound (roundKeyOf rks r) t)
    (fun _ _ => decryptRound_encryptRound _ t _) [1, 2, 3, 4, 5, 6, 7, 8, 9] s

theorem foldl_encryptRound_foldl_decryptRound (s : Block) :
    [1, 2, 3, 4, 5, 6, 7, 8, 9].foldl (fun s r => encryptRound (roundKeyOf rks r) t s)
      ([9, 8, 7, 6, 5, 4, 3, 2, 1].foldl (fun s r => decryptRound (roundKeyOf rks r) t s) s) = s :=
  foldl_reverse_foldl (f := fun r => decryptRound (roundKeyOf rks r) t) (g := fun r => encryptRound (roundKeyOf rks r) t)
    (fun _ _ => encryptRound_decryptRound _ t _) [9, 8, 7, 6, 5, 4, 3, 2, 1] s

/-! ### The cipher (R202, R203) -/

theorem decryptWith_encryptWith (p : Block) : decryptWith rks (encryptWith rks p t) t = p := by
  simp only [decryptWith, encryptWith]
  rw [addRoundKey_xor_addRoundKey_xor, invShiftRows_shiftRows, invSubBytes_subBytes,
    foldl_decryptRound_foldl_encryptRound, addRoundKey_xor_addRoundKey_xor]

theorem encryptWith_decryptWith (c : Block) : encryptWith rks (decryptWith rks c t) t = c := by
  simp only [decryptWith, encryptWith]
  rw [addRoundKey_xor_addRoundKey_xor, foldl_encryptRound_foldl_decryptRound, subBytes_invSubBytes,
    shiftRows_invShiftRows, addRoundKey_xor_addRoundKey_xor]

end

@[simp] theorem decrypt_encrypt (k p t : Block) : decrypt k (encrypt k p t) t = p := decryptWith_encryptWith _ t p

@[simp] theorem encrypt_decrypt (k c t : Block) : encrypt k (decrypt k c t) t = c := encryptWith_decryptWith _ t c

/-- Settles O29: step by step, over the expanded key. -/
theorem decryptInvertsEncrypt : Obligations.DecryptInvertsEncrypt := fun k p t =>
  ⟨decrypt_encrypt k p t, encrypt_decrypt k p t⟩

theorem encrypt_bijective (k t : Block) : Function.Bijective fun p => encrypt k p t :=
  Function.bijective_iff_has_inverse.mpr
    ⟨fun c => decrypt k c t, fun p => decrypt_encrypt k p t, fun c => encrypt_decrypt k c t⟩

/-- R208: the mask of the tweak is the same in both directions. -/
@[simp] theorem xexDecrypt_xexEncrypt (k1 k2 tw p : Block) : xexDecrypt k1 k2 tw (xexEncrypt k1 k2 tw p) = p := by
  rw [xexDecrypt, xexEncrypt, Bytes.xor_self_right, decrypt_encrypt, Bytes.xor_self_right]

end Sys2Proof
end

section
/-! PROOFS. The block commands: their effects, what undoes what, and the sequences of R90 that do the same by primitive
commands (R204 to R211). -/

namespace Sys2Proof.Machine

/-! ### The effects (R204 to R207, R209, R210) -/

theorem exec_aesEnc (k : KeySel) (s : State) :
    exec (.aesEnc k) s = .next ((s.setBlk (encrypt (s.keyHalf k) s.blk (zeros 16))).setErr .ok) := rfl

theorem exec_aesDec (k : KeySel) (s : State) :
    exec (.aesDec k) s = .next ((s.setBlk (decrypt (s.keyHalf k) s.blk (zeros 16))).setErr .ok) := rfl

theorem exec_kiasuEnc (k : KeySel) (s : State) :
    exec (.kiasuEnc k) s = .next ((s.setBlk (encrypt (s.keyHalf k) s.blk (pad8 s.twk8))).setErr .ok) := rfl

theorem exec_kiasuDec (k : KeySel) (s : State) :
    exec (.kiasuDec k) s = .next ((s.setBlk (decrypt (s.keyHalf k) s.blk (pad8 s.twk8))).setErr .ok) := rfl

theorem exec_xexEnc (s : State) :
    exec .xexEnc s = .next ((s.setBlk (xexEncrypt s.keyA s.keyB s.twk s.blk)).setErr .ok) := rfl

theorem exec_xexDec (s : State) :
    exec .xexDec s = .next ((s.setBlk (xexDecrypt s.keyA s.keyB s.twk s.blk)).setErr .ok) := rfl

/-- Settles O42: the selected key half is the half that the statement writes out; R208 is the definition of XEX. -/
theorem blockCommandsWriteBlk : Obligations.BlockCommandsWriteBlk := by
  refine ⟨fun s k kk hkk => ?_, ?_⟩
  · obtain rfl : kk = s.keyHalf k := by rw [hkk]; cases k <;> rfl
    exact ⟨exec_aesEnc k s, exec_aesDec k s, exec_kiasuEnc k s, exec_kiasuDec k s, exec_xexEnc s, exec_xexDec s⟩
  · rintro k1 k2 tw p _ rfl
    exact ⟨rfl, rfl⟩

/-! ### A decrypt command after its encrypt command (R205, R207, R210) -/

/-- A command whose change of BLK undoes the change of the one before it leaves nothing behind but STATUS.ERR. -/
theorem setBlk_setErr_setBlk_blk (s : State) (b : Block) (e : Err) :
    (((s.setBlk b).setErr e).setBlk s.blk).setErr e = { s with err := e } := rfl

/-- Settles O31: the key half and the tweak are read unchanged, so the decrypt function gets BLK back. -/
theorem blockDecryptRestoresBlock : Obligations.BlockDecryptRestoresBlock := by
  refine fun s k => ⟨?_, ?_, ?_⟩
  · simp [exec_aesEnc, exec_aesDec, setBlk_setErr_setBlk_blk]
  · simp [exec_kiasuEnc, exec_kiasuDec, setBlk_setErr_setBlk_blk]
  · simp [exec_xexEnc, exec_xexDec, setBlk_setErr_setBlk_blk]

/-! ### Sequences of primitive commands after KEYEXP A (R90, R211) -/

/-- The state after KEYEXP A, once primitive commands have left `b` in BLK. -/
def State.expandedWith (s : State) (b : Block) : State :=
  ((s.setSchedule .a (keyExpand s.keyA)).setBlk b).setErr .ok

/-- After KEYEXP A the commands `is` turn BLK into its image under `f`, and nothing else changes. -/
def Transforms (s : State) (is : List Instr) (f : Block → Block) : Prop :=
  ∀ b, execAll is (s.expandedWith b) = .next (s.expandedWith (f b))

theorem execAll_append (is js : List Instr) (s : State) :
    execAll (is ++ js) s = andThen (execAll is s) (execAll js) := by
  induction is generalizing s with
  | nil => rfl
  | cons i is ih =>
    obtain ⟨t, ht⟩ := exec_next i s
    simp only [List.cons_append, execAll, ht, andThen_next, ih]

theorem Transforms.append {s : State} {is js : List Instr} {f g : Block → Block} (hf : Transforms s is f)
    (hg : Transforms s js g) : Transforms s (is ++ js) fun b => g (f b) := fun b => by
  rw [execAll_append, hf b, andThen_next, hg (f b)]

/-- The commands of a round, for each round index of a list: a fold over the list. -/
theorem Transforms.rounds {s : State} {c : Nat → List Instr} {f : Nat → Block → Block}
    (h : ∀ r ≤ 10, Transforms s (c r) (f r)) {rs : List Nat} (hrs : ∀ r ∈ rs, r ≤ 10) :
    Transforms s (rs.flatMap c) fun b => rs.foldl (fun b r => f r b) b := by
  induction rs with
  | nil => exact fun _ => rfl
  | cons r rs ih =>
    rw [List.flatMap_cons]
    exact (h r (hrs r (by simp))).append (ih fun q hq => hrs q (by simp [hq]))

/-- R180 to R185: a transform of BLK. -/
theorem transforms_onBlock (s : State) {i : Instr} {f : Block → Block} (hi : ∀ t, exec i t = onBlock f t) :
    Transforms s [i] f := fun b => by
  rw [execAll, hi, onBlock_eq]
  rfl

/-- R30, R147: round key `r` of KEYA's schedule. -/
def State.roundKeyA (s : State) (r : Nat) : Block := roundKeyOf (keyExpand s.keyA) r

/-- R179: after KEYEXP A the check of a legal round index passes, and the round key is of KEYA's schedule. -/
theorem transforms_withRoundKey {s : State} {i : Instr} {r : Nat} (hr : r ≤ 10) (f : Block → Block → Block)
    (hi : ∀ b, exec i (s.expandedWith b) = withRoundKey r f (s.expandedWith b)) :
    Transforms s [i] fun b => f b (s.roundKeyA r) := fun b => by
  rw [execAll, hi, withRoundKey_of_valid hr rfl]
  rfl

section
variable (s : State) {r : Nat} (hr : r ≤ 10)
include hr

theorem transforms_addrk : Transforms s [.addrk r] fun b => addRoundKey b (s.roundKeyA r) :=
  transforms_withRoundKey hr (fun b rk => addRoundKey b rk) fun _ => rfl

theorem transforms_addrkt :
    Transforms s [.addrkt r] fun b => (addRoundKey b (s.roundKeyA r)).xor (pad8 s.twk8) := by
  simp only [addRoundKey, Bytes.xor_assoc]
  exact transforms_withRoundKey hr (fun b rk => addRoundKey b (rk.xor (pad8 s.twk8))) fun _ => rfl

/-- R188, R202: a main round with no tweak. -/
theorem transforms_eround : Transforms s [.eround r] (encryptRound (s.roundKeyA r) (zeros 16)) := fun b => by
  rw [encryptRound, Bytes.xor_zeros]
  exact transforms_withRoundKey hr (fun b rk => addRoundKey (mixColumns (shiftRows (subBytes b))) rk) (fun _ => rfl) b

theorem transforms_efinal :
    Transforms s [.efinal r] fun b => addRoundKey (shiftRows (subBytes b)) (s.roundKeyA r) :=
  transforms_withRoundKey hr (fun b rk => addRoundKey (shiftRows (subBytes b)) rk) fun _ => rfl

/-- R190, R203: a main round of Decrypt with no tweak. -/
theorem transforms_dround : Transforms s [.dround r] (decryptRound (s.roundKeyA r) (zeros 16)) := fun b => by
  rw [decryptRound, Bytes.xor_zeros]
  exact transforms_withRoundKey hr (fun b rk => invSubBytes (invShiftRows (invMixColumns (addRoundKey b rk))))
    (fun _ => rfl) b

theorem transforms_dinit :
    Transforms s [.dinit r] fun b => invSubBytes (invShiftRows (addRoundKey b (s.roundKeyA r))) :=
  transforms_withRoundKey hr (fun b rk => invSubBytes (invShiftRows (addRoundKey b rk))) fun _ => rfl

end

theorem transforms_subb_shr (s : State) : Transforms s [.subb, .shr] fun b => shiftRows (subBytes b) :=
  (transforms_onBlock s fun _ => rfl : Transforms s [.subb] subBytes).append
    (transforms_onBlock s fun _ => rfl : Transforms s [.shr] shiftRows)

/-- R202: a main round under the ND tweak, by its four parts. -/
theorem transforms_subb_shr_mixc_addrkt (s : State) {r : Nat} (hr : r ≤ 10) :
    Transforms s [.subb, .shr, .mixc, .addrkt r] (encryptRound (s.roundKeyA r) (pad8 s.twk8)) :=
  ((transforms_subb_shr s).append (transforms_onBlock s fun _ => rfl : Transforms s [.mixc] mixColumns)).append
    (transforms_addrkt s hr)

/-! ### The sequences of R90 -/

/-- R148: KEYEXP A first, and then the commands on the state it leaves. -/
theorem execAll_keyexp {s : State} {is : List Instr} {f : Block → Block} (h : Transforms s is f) :
    execAll (.keyexp .a :: is) s = .next (s.expandedWith (f s.blk)) := h s.blk

theorem execAll_aes128E (s : State) :
    execAll aes128E s = .next (s.expandedWith (encrypt s.keyA s.blk (zeros 16))) := by
  have hrounds := Transforms.rounds (fun r hr => transforms_eround s hr) (rs := [1, 2, 3, 4, 5, 6, 7, 8, 9]) (by decide)
  simp only [encrypt, encryptWith, Bytes.xor_zeros]
  exact execAll_keyexp (((transforms_addrk s (by decide)).append hrounds).append (transforms_efinal s (by decide)))

theorem execAll_aes128D (s : State) :
    execAll aes128D s = .next (s.expandedWith (decrypt s.keyA s.blk (zeros 16))) := by
  have hrounds := Transforms.rounds (fun r hr => transforms_dround s hr) (rs := [9, 8, 7, 6, 5, 4, 3, 2, 1]) (by decide)
  simp only [decrypt, decryptWith, Bytes.xor_zeros]
  exact execAll_keyexp (((transforms_dinit s (by decide)).append hrounds).append (transforms_addrk s (by decide)))

theorem execAll_kiasu128E (s : State) :
    execAll kiasu128E s = .next (s.expandedWith (encrypt s.keyA s.blk (pad8 s.twk8))) := by
  have hrounds := Transforms.rounds (fun r hr => transforms_subb_shr_mixc_addrkt s hr)
    (rs := [1, 2, 3, 4, 5, 6, 7, 8, 9]) (by decide)
  exact execAll_keyexp (((transforms_addrkt s (by decide)).append hrounds).append
    ((transforms_subb_shr s).append (transforms_addrkt s (by decide))))

theorem exec_kiasuEnc_of_zero_tweak {s : State} (h : s.twk8 = zeros 8) (k : KeySel) :
    exec (.kiasuEnc k) s = exec (.aesEnc k) s := by
  rw [exec_kiasuEnc, exec_aesEnc, h, pad8_zeros]

/-- Settles O30: KEYEXP A and then one transform of BLK after the other, which together are Encrypt or Decrypt. -/
theorem primitiveSequencesEqualBlockCommands : Obligations.PrimitiveSequencesEqualBlockCommands :=
  ⟨fun s => ⟨execAll_aes128E s, execAll_aes128D s, execAll_kiasu128E s, exec_aesEnc .a s, exec_aesDec .a s,
    exec_kiasuEnc .a s⟩, encrypt_bijective, fun _ k h => exec_kiasuEnc_of_zero_tweak h k⟩

end Sys2Proof.Machine
end

section
/-! PROOFS. The mode commands and the block commands do not depend on RKS, STATUS.RKV or STATUS.RKSEL (R201, R237). -/

namespace Sys2Proof.Machine

/-! ### The same end from two states that differ in the schedule state only -/

/-- Two results end the same, but that the second has the schedule state `rk`, `v`, `k`. -/
def SameEnd (rk : Bytes 176) (v : Bool) (k : KeySel) (r r' : Result) : Prop :=
  r' = mapNext (fun t => t.withSchedule rk v k) r

section
variable {rk : Bytes 176} {v : Bool} {k : KeySel} {s : State}

theorem sameEnd_raise (e : Err) : SameEnd rk v k (raise e s) (raise e (s.withSchedule rk v k)) := rfl

theorem sameEnd_ite {c : Prop} [Decidable c] {r r' q q' : Result} (hr : SameEnd rk v k r r') (hq : SameEnd rk v k q q') :
    SameEnd rk v k (if c then r else q) (if c then r' else q') := by
  split
  · exact hr
  · exact hq

/-- R109, R223, R224, R226, R234: both states hold the same address input. -/
theorem sameEnd_addressInput {f f' : Block → Result} (hf : ∀ p, SameEnd rk v k (f p) (f' p)) :
    SameEnd rk v k (match addressInput s with | none => raise .invalidAddress s | some p => f p)
      (match addressInput (s.withSchedule rk v k) with
        | none => raise .invalidAddress (s.withSchedule rk v k)
        | some p => f' p) := by
  have haddr : addressInput (s.withSchedule rk v k) = addressInput s := rfl
  rw [haddr]
  cases addressInput s with
  | none => exact sameEnd_raise _
  | some p => exact hf p

/-- R221 items 1 and 2: both states pass or fail the first checks of a tweaked mode. -/
theorem sameEnd_modeCheck (m n : Nat) {r r' : Result} (hr : SameEnd rk v k r r') :
    SameEnd rk v k (match modeCheck m n s with | some e => raise e s | none => r)
      (match modeCheck m n (s.withSchedule rk v k) with
        | some e => raise e (s.withSchedule rk v k)
        | none => r') := by
  have hcheck : modeCheck m n (s.withSchedule rk v k) = modeCheck m n s := rfl
  rw [hcheck]
  cases modeCheck m n s with
  | none => exact hr
  | some e => exact sameEnd_raise _

theorem afterTweak_withSchedule (n : Nat) :
    (s.withSchedule rk v k).afterTweak n = (s.afterTweak n).withSchedule rk v k := by
  have hlen : (s.withSchedule rk v k).twklen = s.twklen := rfl
  simp only [State.afterTweak, hlen]
  split <;> rfl

theorem sameEnd_encoded {n : Nat} (x : Bytes n) (c : Block) :
    SameEnd rk v k (complete ((s.afterTweak n).setEncoded x c))
      (complete (((s.withSchedule rk v k).afterTweak n).setEncoded x c)) := by
  rw [afterTweak_withSchedule]
  rfl

theorem keyHalf_withSchedule (h : KeySel) : (s.withSchedule rk v k).keyHalf h = s.keyHalf h :=
  keyHalf_congr rfl h

/-- R201, R237: the checks, the inputs and the outputs of these commands are none of the three. -/
theorem sameEnd_exec {i : Instr} (hi : isMode i = true ∨ isBlockCommand i = true) :
    SameEnd rk v k (exec i s) (exec i (s.withSchedule rk v k)) := by
  cases i with
  | aesEnc h | aesDec h | kiasuEnc h | kiasuDec h =>
    simp only [exec, execAesEnc, execAesDec, execKiasuEnc, execKiasuDec, keyHalf_withSchedule]
    rfl
  | xexEnc | xexDec => rfl
  | detEnc | detDec => exact sameEnd_ite (sameEnd_raise _) (sameEnd_addressInput fun _ => rfl)
  | ndEnc => exact sameEnd_modeCheck 16 8 (sameEnd_addressInput fun _ => sameEnd_encoded _ _)
  | ndxEnc => exact sameEnd_modeCheck 32 16 (sameEnd_addressInput fun _ => sameEnd_encoded _ _)
  | ndDec =>
    exact sameEnd_modeCheck 16 8 (sameEnd_ite (sameEnd_raise _) (sameEnd_ite (sameEnd_raise _) rfl))
  | ndxDec =>
    exact sameEnd_modeCheck 32 16 (sameEnd_ite (sameEnd_raise _) (sameEnd_ite (sameEnd_raise _) rfl))
  | _ => simp [isMode, isBlockCommand] at hi

end

/-! ### The errors -/

/-- R271: a command ends with OK or with an error of its own. -/
theorem CommandEffect.err_eq_ok_or_mem {i : Instr} {s t : State} (h : CommandEffect i s t) :
    t.err = .ok ∨ t.err ∈ errorsOf i := by
  cases h with
  | failed e he => exact .inr he
  | _ => exact .inl rfl

/-- R179, R271: the two errors of the round-key check are of no mode command and of no block command. -/
theorem roundKeyErrors_not_mem_errorsOf {i : Instr} (hi : isMode i = true ∨ isBlockCommand i = true) :
    Err.badOperand ∉ errorsOf i ∧ Err.noSchedule ∉ errorsOf i := by
  cases i with
  | addrk | addrkt | eround | efinal | dround | dinit => simp [isMode, isBlockCommand] at hi
  | _ => simp [errorsOf]

/-- Settles O55: no check, input or output of these commands is the schedule state, and neither error is one of theirs. -/
theorem modesAndBlockCommandsIgnoreSchedule : Obligations.ModesAndBlockCommandsIgnoreSchedule := by
  refine fun i s rk v k hi => ⟨sameEnd_exec hi, fun t ht => ?_⟩
  obtain ⟨hbad, hno⟩ := roundKeyErrors_not_mem_errorsOf hi
  rcases (effect_of_exec ht).err_eq_ok_or_mem with he | he
  · rw [he]
    exact ⟨by decide, by decide⟩
  · exact ⟨fun h => hbad (h ▸ he), fun h => hno (h ▸ he)⟩

end Sys2Proof.Machine
end

section
/-! PROOFS. The encoded form in the buffers: its two parts in DBUF, and the characters of its hex text (R29, R107). -/

namespace Sys2Proof

theorem Bytes.slice_fill_append_left {m n : Nat} (a : Bytes n) (l : List Byte) (h : n ≤ m) :
    (Bytes.fill m (a.bytes ++ l)).slice 0 n = a := by
  refine Bytes.ext_byteAt fun i hi => ?_
  rw [Bytes.byteAt_slice _ _ _ _ hi, Nat.zero_add, Bytes.byteAt_fill _ _ _ (by omega),
    List.getD_append _ _ _ _ (by simpa using hi), Bytes.getD_bytes]

theorem Bytes.slice_fill_append_right {m n k : Nat} (a : Bytes n) (b : Bytes k) (h : n + k ≤ m) :
    (Bytes.fill m (a.bytes ++ b.bytes)).slice n k = b := by
  refine Bytes.ext_byteAt fun i hi => ?_
  rw [Bytes.byteAt_slice _ _ _ _ hi, Bytes.byteAt_fill _ _ _ (by omega), List.getD_append_right _ _ _ _ (by simp),
    Bytes.getD_bytes, Bytes.length_bytes, Nat.add_sub_cancel_left]

/-- R107: Hex writes lowercase hex digits only. -/
theorem mem_hexCharacters_of_mem_hex {d : List Byte} : ∀ c ∈ hex d, c ∈ Machine.hexCharacters := by
  induction d with
  | nil => simp
  | cons x d ih =>
    have hx := x.isLt
    rw [hex_cons, List.forall_mem_cons, List.forall_mem_cons]
    exact ⟨nib_mem_hexCharacters (by omega), nib_mem_hexCharacters (by omega), ih⟩

end Sys2Proof
end

section
/-! PROOFS. The mode commands: their checks, the tweak and the outputs. ND and NDX are one mode with two tweak lengths, which
`tweakedEncrypt` and `tweakedDecrypt` say once (R220 to R235). -/

namespace Sys2Proof.Machine

/-! ### The checks (R221, R228) -/

/-- A length register that is equal to a length holds it. -/
theorem toNat_of_eq_ofNat {b : Byte} {n : Nat} (h : b = BitVec.ofNat 8 n) (hn : n < 256 := by decide) : b.toNat = n :=
  BitVec.toNat_eq_nat.mpr ⟨hn, h⟩

/-- R25: TWKLEN has one of the two values that a tweaked mode accepts. -/
theorem toNat_eq_zero_or_eq {b : Byte} {n : Nat} (h : b = 0 ∨ b = BitVec.ofNat 8 n) (hn : n < 256 := by decide) :
    b.toNat = 0 ∨ b.toNat = n :=
  h.imp toNat_of_eq_ofNat fun h => toNat_of_eq_ofNat h hn

theorem toNat_ne_of_ne_ofNat {b : Byte} {n : Nat} (h : b ≠ BitVec.ofNat 8 n) : b.toNat ≠ n :=
  fun hb => h (BitVec.toNat_eq_nat.mp hb).2

section
variable {k n : Nat} {s : State}

theorem modeCheck_eq_invalidKey (h : s.keylen.toNat ≠ k) : modeCheck k n s = some .invalidKey := if_pos h

theorem modeCheck_eq_invalidTweak (hk : s.keylen.toNat = k) (h0 : s.twklen.toNat ≠ 0) (hn : s.twklen.toNat ≠ n) :
    modeCheck k n s = some .invalidTweak := by
  rw [modeCheck, if_neg (not_not.mpr hk), if_pos ⟨h0, hn⟩]

theorem modeCheck_eq_none_iff :
    modeCheck k n s = none ↔ s.keylen.toNat = k ∧ (s.twklen.toNat = 0 ∨ s.twklen.toNat = n) := by
  refine ⟨fun h => ?_, fun ⟨hk, ht⟩ => modeCheck_of_valid hk ht⟩
  rcases modeCheck_cases k n s with ⟨-, he⟩ | ⟨-, -, he⟩ | ⟨hk, ht, -⟩
  · cases he.symm.trans h
  · cases he.symm.trans h
  · exact ⟨hk, ht⟩

theorem tweakMismatch_eq_true_iff :
    tweakMismatch n s = true ↔ s.twklen.toNat = n ∧ s.twk.slice 0 n ≠ s.dbuf.slice 0 n := by
  rw [tweakMismatch, Bool.and_eq_true, decide_eq_true_iff, decide_eq_true_iff]

theorem tweakMismatch_eq_false_iff :
    tweakMismatch n s = false ↔ (s.twklen.toNat = n → s.twk.slice 0 n = s.dbuf.slice 0 n) := by
  rw [← Bool.not_eq_true, tweakMismatch_eq_true_iff, not_and, not_not]

end

/-! ### The tweak of an encrypt command (R225, R231) -/

section
variable {n : Nat} {s : State}

theorem chosenTweak_of_supplied (h : s.twklen.toNat = n) : chosenTweak n s = s.twk.slice 0 n := if_pos h

theorem afterTweak_of_supplied (h : s.twklen.toNat = n) : s.afterTweak n = s := if_pos h

theorem chosenTweak_of_drawn {x : Bytes n} (h : s.twklen.toNat ≠ n) (hx : x.bytes = drawBytes s n) :
    chosenTweak n s = x := by
  rw [chosenTweak, if_neg h, ← hx, Bytes.fill_bytes]

theorem afterTweak_of_drawn (h : s.twklen.toNat ≠ n) : s.afterTweak n = s.afterDraw n := if_neg h

end

/-! ### The outputs (R222) -/

/-- R222, R224: the text of a result is the canonical spelling of its block. -/
theorem text_setResult (s : State) (b : Block) : ((s.setResult b).setErr .ok).text = format b :=
  text_setText (s.setBlk b) (length_format_le b)

/-- R236: the text of a result is an address input, of the same block. -/
theorem addressInput_setResult (s : State) (b : Block) : addressInput ((s.setResult b).setErr .ok) = some b := by
  refine (addressInput_eq_some_iff _ b).mpr ⟨?_, by rw [text_setResult, parse_format]⟩
  exact (toNat_setText_alen (s.setBlk b) (length_format_le b)).trans_le (length_format_le b)

/-- R226, R234: the registers that the encoded form goes to. -/
theorem setEncoded_eq {n : Nat} (s : State) (x : Bytes n) (c : Block) :
    s.setEncoded x c = { s with
      blk := c, dbuf := Bytes.fill 32 (x.bytes ++ c.bytes), dlen := BitVec.ofNat 8 (n + 16),
      abuf := Bytes.fill 64 (hex (x.bytes ++ c.bytes)), alen := BitVec.ofNat 8 (2 * (n + 16)) } := by
  simp [State.setEncoded, State.setBlk, State.setData, State.setText]

theorem text_setEncoded {n : Nat} (s : State) (x : Bytes n) (c : Block) (h : n ≤ 16) :
    ((s.setEncoded x c).setErr .ok).text = hex (x.cat c).bytes := by
  refine text_setText ((s.setBlk c).setData (x.cat c).bytes) ?_
  rw [length_hex, Bytes.length_bytes]
  omega

/-! ### The two tweaked modes (R225 to R235) -/

/-- R226, R234: an encrypt command with a `k`-byte key and an `n`-byte tweak. -/
def tweakedEncrypt (k n : Nat) (enc : Bytes n → Block → Block) (s : State) : Result :=
  match modeCheck k n s with
  | some e => raise e s
  | none =>
    match addressInput s with
    | none => raise .invalidAddress s
    | some p => complete ((s.afterTweak n).setEncoded (chosenTweak n s) (enc (chosenTweak n s) p))

/-- R227, R228, R235: a decrypt command with a `k`-byte key and an `n`-byte tweak. -/
def tweakedDecrypt (k n : Nat) (dec : Bytes n → Block → Block) (s : State) : Result :=
  match modeCheck k n s with
  | some e => raise e s
  | none =>
    if s.dlen.toNat ≠ n + 16 then raise .invalidEncodedLength s
    else if tweakMismatch n s then raise .tweakMismatch s
    else complete (s.setResult (dec (s.dbuf.slice 0 n) (s.dbuf.slice n 16)))

theorem exec_ndEnc (s : State) : exec .ndEnc s = tweakedEncrypt 16 8 (fun x p => encrypt s.keyA p (pad8 x)) s := rfl

theorem exec_ndDec (s : State) : exec .ndDec s = tweakedDecrypt 16 8 (fun x c => decrypt s.keyA c (pad8 x)) s := rfl

theorem exec_ndxEnc (s : State) : exec .ndxEnc s = tweakedEncrypt 32 16 (xexEncrypt s.keyA s.keyB) s := rfl

theorem exec_ndxDec (s : State) : exec .ndxDec s = tweakedDecrypt 32 16 (xexDecrypt s.keyA s.keyB) s := rfl

section
variable {k n : Nat} {enc dec : Bytes n → Block → Block} {s t : State}

/-! #### The end of each check -/

theorem tweakedEncrypt_of_modeCheck {e : Err} (h : modeCheck k n s = some e) :
    tweakedEncrypt k n enc s = .next (s.setErr e) := by
  rw [tweakedEncrypt, h]
  rfl

theorem tweakedDecrypt_of_modeCheck {e : Err} (h : modeCheck k n s = some e) :
    tweakedDecrypt k n dec s = .next (s.setErr e) := by
  rw [tweakedDecrypt, h]
  rfl

theorem tweakedEncrypt_of_no_address (hc : modeCheck k n s = none) (ha : addressInput s = none) :
    tweakedEncrypt k n enc s = .next (s.setErr .invalidAddress) := by
  rw [tweakedEncrypt, hc, ha]
  rfl

theorem tweakedEncrypt_of_valid {p : Block} (hc : modeCheck k n s = none) (ha : addressInput s = some p) :
    tweakedEncrypt k n enc s =
      .next (((s.afterTweak n).setEncoded (chosenTweak n s) (enc (chosenTweak n s) p)).setErr .ok) := by
  rw [tweakedEncrypt, hc, ha]
  rfl

theorem tweakedDecrypt_of_dlen_ne (hc : modeCheck k n s = none) (hd : s.dlen.toNat ≠ n + 16) :
    tweakedDecrypt k n dec s = .next (s.setErr .invalidEncodedLength) := by
  rw [tweakedDecrypt, hc]
  exact if_pos hd

theorem tweakedDecrypt_of_mismatch (hc : modeCheck k n s = none) (hd : s.dlen.toNat = n + 16)
    (hm : tweakMismatch n s = true) : tweakedDecrypt k n dec s = .next (s.setErr .tweakMismatch) := by
  rw [tweakedDecrypt, hc]
  exact (if_neg (not_not.mpr hd)).trans (if_pos hm)

theorem tweakedDecrypt_of_valid (hc : modeCheck k n s = none) (hd : s.dlen.toNat = n + 16)
    (hm : tweakMismatch n s = false) :
    tweakedDecrypt k n dec s = .next ((s.setResult (dec (s.dbuf.slice 0 n) (s.dbuf.slice n 16))).setErr .ok) := by
  rw [tweakedDecrypt, hc]
  exact (if_neg (not_not.mpr hd)).trans (if_neg (Bool.not_eq_true _ ▸ hm))

/-- R228: the decrypt command goes on with no supplied tweak, or with one equal to the stored tweak. -/
theorem tweakedDecrypt_of_matching (h0 : 0 < n) (hk : s.keylen.toNat = k)
    (ht : s.twklen.toNat = 0 ∨ s.twklen.toNat = n ∧ s.twk.slice 0 n = s.dbuf.slice 0 n) (hd : s.dlen.toNat = n + 16) :
    tweakedDecrypt k n dec s = .next ((s.setResult (dec (s.dbuf.slice 0 n) (s.dbuf.slice n 16))).setErr .ok) := by
  refine tweakedDecrypt_of_valid (modeCheck_of_valid hk (ht.imp_right And.left)) hd ?_
  rw [tweakMismatch_eq_false_iff]
  intro hn
  rcases ht with h | ⟨-, h⟩
  · omega
  · exact h

/-! #### What a success says -/

theorem modeCheck_ne_ok : modeCheck k n s ≠ some .ok := by
  rcases modeCheck_cases k n s with ⟨-, h⟩ | ⟨-, -, h⟩ | ⟨-, -, h⟩ <;> rw [h] <;> decide

/-- R226, R234: an encrypt command that ends with OK has written the encoded form. -/
theorem eq_setEncoded_of_tweakedEncrypt (h : tweakedEncrypt k n enc s = .next t) (hok : t.err = .ok) :
    ∃ p, t = ((s.afterTweak n).setEncoded (chosenTweak n s) (enc (chosenTweak n s) p)).setErr .ok := by
  cases hc : modeCheck k n s with
  | some e =>
    obtain rfl : s.setErr e = t := Host.Outcome.next.inj ((tweakedEncrypt_of_modeCheck hc).symm.trans h)
    exact absurd (hc.trans (congrArg some hok)) modeCheck_ne_ok
  | none =>
    cases ha : addressInput s with
    | none =>
      obtain rfl := Host.Outcome.next.inj ((tweakedEncrypt_of_no_address hc ha).symm.trans h)
      cases hok
    | some p => exact ⟨p, (Host.Outcome.next.inj ((tweakedEncrypt_of_valid hc ha).symm.trans h)).symm⟩

/-- R229: a decrypt command accepts one length only. -/
theorem dlen_of_tweakedDecrypt (h : tweakedDecrypt k n dec s = .next t) (hok : t.err = .ok) : s.dlen.toNat = n + 16 := by
  by_contra hd
  cases hc : modeCheck k n s with
  | some e =>
    obtain rfl : s.setErr e = t := Host.Outcome.next.inj ((tweakedDecrypt_of_modeCheck hc).symm.trans h)
    exact absurd (hc.trans (congrArg some hok)) modeCheck_ne_ok
  | none =>
    obtain rfl := Host.Outcome.next.inj ((tweakedDecrypt_of_dlen_ne hc hd).symm.trans h)
    cases hok

end

end Sys2Proof.Machine
end

section
/-! PROOFS. What the host sees of the modes: that decrypt undoes encrypt, the encoded form of ND, and every end of each command
(R221 to R236). -/

namespace Sys2Proof.Machine

/-! ### Decrypt after encrypt in the tweaked modes (R236) -/

section
variable {k n : Nat} {enc dec : Bytes n → Block → Block} {s : State}

/-- R228, R236: the checks pass on what an encrypt command wrote, with TWKLEN as it was or 0. -/
theorem tweakedDecrypt_of_encoded {t : State} {c : Block} (h0 : 0 < n) (h16 : n ≤ 16) (hc : modeCheck k n s = none)
    (hkeylen : t.keylen = s.keylen) (htwk : t.twk = s.twk) (hw : t.twklen = s.twklen ∨ t.twklen = 0)
    (hdbuf : t.dbuf = Bytes.fill 32 ((chosenTweak n s).bytes ++ c.bytes)) (hdlen : t.dlen = BitVec.ofNat 8 (n + 16)) :
    tweakedDecrypt k n dec t = .next ((t.setResult (dec (chosenTweak n s) c)).setErr .ok) := by
  obtain ⟨hk, ht⟩ := modeCheck_eq_none_iff.mp hc
  have hx : t.dbuf.slice 0 n = chosenTweak n s := by rw [hdbuf, Bytes.slice_fill_append_left _ _ (by omega)]
  have hy : t.dbuf.slice n 16 = c := by rw [hdbuf, Bytes.slice_fill_append_right _ _ (by omega)]
  have hmatch : t.twklen.toNat = 0 ∨ t.twklen.toNat = n ∧ t.twk.slice 0 n = t.dbuf.slice 0 n := by
    rcases hw with h | h
    · rw [h, htwk, hx]
      exact ht.imp_right fun hn => ⟨hn, (chosenTweak_of_supplied hn).symm⟩
    · exact .inl (toNat_of_eq_ofNat h)
  rw [tweakedDecrypt_of_matching h0 (hkeylen ▸ hk) hmatch (toNat_of_eq_ofNat hdlen (by omega)), hx, hy]

/-- R236 item 1, for an encrypt command `i` and its decrypt command `j`. -/
theorem tweakedRoundTrip {i j : Instr} {p : Block} (h0 : 0 < n) (h16 : n ≤ 16)
    (hi : exec i s = tweakedEncrypt k n enc s) (hj : ∀ t, t.key = s.key → exec j t = tweakedDecrypt k n dec t)
    (hc : modeCheck k n s = none) (ha : addressInput s = some p) (hinv : ∀ x, dec x (enc x p) = p) :
    ∃ t, exec i s = .next t ∧ ∀ t', (t' = t ∨ t' = { t with twklen := 0 }) →
      ∃ u, exec j t' = .next u ∧ u.err = .ok ∧ u.blk = p ∧ u.text = format p := by
  obtain ⟨r, f, hrng⟩ := afterTweak_eq s n
  rw [tweakedEncrypt_of_valid hc ha, hrng, setEncoded_eq] at hi
  refine ⟨_, hi, fun t' ht' => ?_⟩
  have hkey : t'.key = s.key := by rcases ht' with rfl | rfl <;> rfl
  have hdec : tweakedDecrypt k n dec t' = .next ((t'.setResult p).setErr .ok) := by
    rw [← hinv (chosenTweak n s)]
    rcases ht' with rfl | rfl
    · exact tweakedDecrypt_of_encoded h0 h16 hc rfl rfl (.inl rfl) rfl rfl
    · exact tweakedDecrypt_of_encoded h0 h16 hc rfl rfl (.inr rfl) rfl rfl
  exact ⟨_, (hj t' hkey).trans hdec, rfl, rfl, text_setResult t' p⟩

end

/-- Settles O57: the two modes are one, and in each the decrypt function undoes the encrypt function. -/
theorem tweakedModesRoundTrip : Obligations.TweakedModesRoundTrip := by
  intro s p hle hp
  have ha : addressInput s = some p := (addressInput_eq_some_iff s p).mpr ⟨hle, hp⟩
  refine ⟨fun hk ht => ?_, fun hk ht => ?_⟩
  · have hc : modeCheck 16 8 s = none := modeCheck_of_valid (toNat_of_eq_ofNat hk) (toNat_eq_zero_or_eq ht)
    refine tweakedRoundTrip (dec := fun x c => decrypt s.keyA c (pad8 x)) (by decide) (by decide) (exec_ndEnc s)
      (fun t h => ?_) hc ha fun x => decrypt_encrypt s.keyA p (pad8 x)
    rw [exec_ndDec, State.keyA, h, State.keyA]
  · have hc : modeCheck 32 16 s = none := modeCheck_of_valid (toNat_of_eq_ofNat hk) (toNat_eq_zero_or_eq ht)
    refine tweakedRoundTrip (by decide) (by decide) (exec_ndxEnc s) (fun t h => ?_) hc ha fun x =>
      xexDecrypt_xexEncrypt s.keyA s.keyB x p
    rw [exec_ndxDec, State.keyA, State.keyB, h, State.keyA, State.keyB]

/-! ### The encoded form of ND (R229) -/

/-- R112, R229: HEXDEC reads back the bytes whose hex form is in ABUF. -/
theorem exec_hexdec_of_hex {s : State} {d : List Byte} (hd : d.length ≤ 32) (habuf : s.abuf = Bytes.fill 64 (hex d))
    (halen : s.alen = BitVec.ofNat 8 (hex d).length) : exec .hexdec s = .next ((s.setData d).setErr .ok) := by
  have hs : s = s.setText (hex d) := by rw [State.setText, ← habuf, ← halen]
  have hle : (hex d).length ≤ 64 := by rw [length_hex]; omega
  have hlen : s.alen.toNat = 2 * d.length := by rw [hs, toNat_setText_alen s hle, length_hex]
  have hunhex : unhex s.text = some d := by rw [hs, text_setText s hle, unhex_hex]
  rw [exec_hexdec_of_even (by omega) (by omega), hunhex]
  rfl

/-- Settles O58: a success of ND_ENC has written 24 bytes to DBUF and their hex form to ABUF. -/
theorem ndEncodedLengths : Obligations.NdEncodedLengths := by
  refine ⟨fun s t h hok => ?_, fun s t h hok => ?_⟩
  · obtain ⟨p, rfl⟩ := eq_setEncoded_of_tweakedEncrypt ((exec_ndEnc s).symm.trans h) hok
    refine ⟨congrArg State.alen (setEncoded_eq (s.afterTweak 8) _ _),
      congrArg State.dlen (setEncoded_eq (s.afterTweak 8) _ _), ?_, _,
      exec_hexdec_of_hex (Bytes.length_bytes _ |>.trans_le (by decide)) rfl rfl, rfl, rfl, rfl⟩
    rw [text_setEncoded _ _ _ (by decide)]
    exact mem_hexCharacters_of_mem_hex
  · exact BitVec.eq_of_toNat_eq (dlen_of_tweakedDecrypt ((exec_ndDec s).symm.trans h) hok)

/-! ### The deterministic mode (R223, R224) -/

section
variable {s : State}

theorem exec_detEnc_of_valid {p : Block} (hk : s.keylen.toNat = 16) (ha : addressInput s = some p) :
    exec .detEnc s = .next ((s.setResult (encrypt s.keyA p (zeros 16))).setErr .ok) := by
  simp only [exec, execDetEnc, ha, if_neg (not_not.mpr hk)]
  rfl

theorem exec_detDec_of_valid {c : Block} (hk : s.keylen.toNat = 16) (ha : addressInput s = some c) :
    exec .detDec s = .next ((s.setResult (decrypt s.keyA c (zeros 16))).setErr .ok) := by
  simp only [exec, execDetDec, ha, if_neg (not_not.mpr hk)]
  rfl

/-- R109, R221: DET_ENC and DET_DEC have one input, and fail alike on it. -/
theorem exec_det_of_no_address (hk : s.keylen.toNat = 16) (ha : addressInput s = none) :
    exec .detEnc s = .next (s.setErr .invalidAddress) ∧ exec .detDec s = .next (s.setErr .invalidAddress) := by
  simp only [exec, execDetEnc, execDetDec, ha, if_neg (not_not.mpr hk)]
  exact ⟨rfl, rfl⟩

end

/-- Settles O46: with a valid key the address input alone decides how the two commands end. -/
theorem deterministicModeResults : Obligations.DeterministicModeResults := by
  rintro s b _ _ hk hle hb rfl rfl
  have hkeylen : s.keylen.toNat = 16 := toNat_of_eq_ofNat hk
  have ha : addressInput s = some b := (addressInput_eq_some_iff s b).mpr ⟨hle, hb⟩
  exact ⟨exec_detEnc_of_valid hkeylen ha, exec_detDec_of_valid hkeylen ha⟩

/-- Settles O56: the text that DET_ENC leaves is the address of its block, which DET_DEC takes. -/
theorem deterministicRoundTrip : Obligations.DeterministicRoundTrip := by
  intro s p hk hle hp
  have hkeylen : s.keylen.toNat = 16 := toNat_of_eq_ofNat hk
  have henc := exec_detEnc_of_valid hkeylen ((addressInput_eq_some_iff s p).mpr ⟨hle, hp⟩)
  have hinv : decrypt s.keyA (encrypt s.keyA p (zeros 16)) (zeros 16) = p := decrypt_encrypt s.keyA p (zeros 16)
  have ha := addressInput_setResult s (encrypt s.keyA p (zeros 16))
  refine ⟨_, _, henc, exec_detDec_of_valid hkeylen ha, rfl, hinv, ?_⟩
  rw [text_setResult]
  exact congrArg format hinv

/-! ### Successes and failures of the tweaked modes (R221 to R235) -/

section
variable {k n : Nat} {enc : Bytes n → Block → Block} {s : State} {p : Block}

theorem tweakedEncrypt_of_supplied (hk : s.keylen.toNat = k) (ht : s.twklen.toNat = n) (ha : addressInput s = some p) :
    tweakedEncrypt k n enc s =
      .next ((s.setEncoded (s.twk.slice 0 n) (enc (s.twk.slice 0 n) p)).setErr .ok) := by
  rw [tweakedEncrypt_of_valid (modeCheck_of_valid hk (.inr ht)) ha, chosenTweak_of_supplied ht, afterTweak_of_supplied ht]

theorem tweakedEncrypt_of_drawn {x : Bytes n} (h0 : 0 < n) (hk : s.keylen.toNat = k) (ht : s.twklen.toNat = 0)
    (ha : addressInput s = some p) (hx : x.bytes = drawBytes s n) :
    tweakedEncrypt k n enc s = .next (((s.afterDraw n).setEncoded x (enc x p)).setErr .ok) := by
  have hn : s.twklen.toNat ≠ n := ht ▸ h0.ne
  rw [tweakedEncrypt_of_valid (modeCheck_of_valid hk (.inl ht)) ha, chosenTweak_of_drawn hn hx, afterTweak_of_drawn hn]

end

/-- Settles O47: the tweak is chosen as TWKLEN says, and the encoded form is written. -/
theorem tweakedEncryptResults : Obligations.TweakedEncryptResults := by
  intro s p hle hp
  have ha : addressInput s = some p := (addressInput_eq_some_iff s p).mpr ⟨hle, hp⟩
  refine ⟨?_, ?_⟩
  · rintro x _ hk rfl
    refine ⟨fun ht hx => ?_, fun ht hx => ?_⟩
    · rw [hx, exec_ndEnc, tweakedEncrypt_of_supplied (toNat_of_eq_ofNat hk) (toNat_of_eq_ofNat ht) ha, setEncoded_eq]
      rfl
    · rw [exec_ndEnc, tweakedEncrypt_of_drawn (by decide) (toNat_of_eq_ofNat hk) (toNat_of_eq_ofNat ht) ha hx,
        setEncoded_eq]
      rfl
  · rintro x _ hk rfl
    refine ⟨fun ht hx => ?_, fun ht hx => ?_⟩
    · rw [hx, exec_ndxEnc, tweakedEncrypt_of_supplied (toNat_of_eq_ofNat hk) (toNat_of_eq_ofNat ht) ha, setEncoded_eq,
        Bytes.slice_full]
      rfl
    · rw [exec_ndxEnc, tweakedEncrypt_of_drawn (by decide) (toNat_of_eq_ofNat hk) (toNat_of_eq_ofNat ht) ha hx,
        setEncoded_eq]
      rfl

/-- Settles O48: the three checks of a decrypt command pass, and its result is written. -/
theorem tweakedDecryptResults : Obligations.TweakedDecryptResults := by
  intro s p
  refine ⟨?_, ?_⟩
  · rintro hk hd ht rfl
    rw [exec_ndDec, tweakedDecrypt_of_matching (by decide) (toNat_of_eq_ofNat hk)
      (ht.imp toNat_of_eq_ofNat (And.imp_left toNat_of_eq_ofNat)) (toNat_of_eq_ofNat hd)]
    rfl
  · rintro hk hd ht rfl
    rw [← Bytes.slice_full s.twk] at ht
    rw [exec_ndxDec, tweakedDecrypt_of_matching (by decide) (toNat_of_eq_ofNat hk)
      (ht.imp toNat_of_eq_ofNat (And.imp_left toNat_of_eq_ofNat)) (toNat_of_eq_ofNat hd)]
    rfl

/-- Settles O49: each check in turn, with those before it passed. -/
theorem modeValidationOrder : Obligations.ModeValidationOrder := by
  intro s
  simp only [List.forall_mem_cons, List.not_mem_nil, false_imp_iff, implies_true, and_true,
    exec_ndEnc, exec_ndDec, exec_ndxEnc, exec_ndxDec]
  refine ⟨fun hk => ?_, fun hk => ?_, fun hk h0 hn => ?_, fun hk h0 hn => ?_, fun h => ?_, fun hk ht hd => ?_,
    fun hk ht hd => ?_, fun hk ht hd hm => ?_, fun hk ht hd hm => ?_⟩
  · have hk' := toNat_ne_of_ne_ofNat hk
    have hc := modeCheck_eq_invalidKey (n := 8) hk'
    exact ⟨if_pos hk', if_pos hk', tweakedEncrypt_of_modeCheck hc, tweakedDecrypt_of_modeCheck hc⟩
  · have hc := modeCheck_eq_invalidKey (n := 16) (toNat_ne_of_ne_ofNat hk)
    exact ⟨tweakedEncrypt_of_modeCheck hc, tweakedDecrypt_of_modeCheck hc⟩
  · have hc := modeCheck_eq_invalidTweak (n := 8) (toNat_of_eq_ofNat hk) (toNat_ne_of_ne_ofNat h0)
      (toNat_ne_of_ne_ofNat hn)
    exact ⟨tweakedEncrypt_of_modeCheck hc, tweakedDecrypt_of_modeCheck hc⟩
  · have hc := modeCheck_eq_invalidTweak (n := 16) (toNat_of_eq_ofNat hk) (toNat_ne_of_ne_ofNat h0)
      (toNat_ne_of_ne_ofNat hn)
    exact ⟨tweakedEncrypt_of_modeCheck hc, tweakedDecrypt_of_modeCheck hc⟩
  · have ha : addressInput s = none := (addressInput_eq_none_iff s).mpr h
    refine ⟨fun hk => exec_det_of_no_address (toNat_of_eq_ofNat hk) ha, fun hk ht => ?_, fun hk ht => ?_⟩
    · exact tweakedEncrypt_of_no_address (modeCheck_of_valid (toNat_of_eq_ofNat hk) (toNat_eq_zero_or_eq ht)) ha
    · exact tweakedEncrypt_of_no_address (modeCheck_of_valid (toNat_of_eq_ofNat hk) (toNat_eq_zero_or_eq ht)) ha
  · have hc := modeCheck_of_valid (toNat_of_eq_ofNat hk) (toNat_eq_zero_or_eq ht)
    exact tweakedDecrypt_of_dlen_ne hc (toNat_ne_of_ne_ofNat hd)
  · have hc := modeCheck_of_valid (toNat_of_eq_ofNat hk) (toNat_eq_zero_or_eq ht)
    exact tweakedDecrypt_of_dlen_ne hc (toNat_ne_of_ne_ofNat hd)
  · have hn : s.twklen.toNat = 8 := toNat_of_eq_ofNat ht
    exact tweakedDecrypt_of_mismatch (modeCheck_of_valid (toNat_of_eq_ofNat hk) (.inr hn)) (toNat_of_eq_ofNat hd)
      (tweakMismatch_eq_true_iff.mpr ⟨hn, hm⟩)
  · have hn : s.twklen.toNat = 16 := toNat_of_eq_ofNat ht
    rw [← Bytes.slice_full s.twk] at hm
    exact tweakedDecrypt_of_mismatch (modeCheck_of_valid (toNat_of_eq_ofNat hk) (.inr hn)) (toNat_of_eq_ofNat hd)
      (tweakMismatch_eq_true_iff.mpr ⟨hn, hm⟩)

end Sys2Proof.Machine
end

section
/-! PROOFS. NOP, and the words whose opcode is NOP's (R260). -/

namespace Sys2Proof.Machine

/-- R84: opcode 0x00 is NOP's alone. -/
theorem eq_nop_of_op_eq_zero {i : Instr} (h : i.op = 0x00) : i = .nop := by
  cases i with
  | nop => rfl
  | _ => exact absurd h (by simp [Instr.op])

/-- R83, R260: a legal word with OP = 0x00 is the word of NOP. -/
theorem eq_zero_of_decode_of_opField {v : Word} {i : Instr} (hd : decode v = .ok i) (hop : opField v = 0x00) : v = 0 := by
  obtain ⟨hi, -⟩ := (decode_eq_ok_iff v i).mp hd
  obtain rfl : i = .nop := eq_nop_of_op_eq_zero (hi.symm.trans hop)
  obtain ⟨-, henc⟩ := decodeAcceptsOnlyEncodings v .nop hd
  exact henc.symm

/-- Settles O36: the word 0 decodes to NOP, and no other word with NOP's opcode decodes. -/
theorem nopWritesErrOnly : Obligations.NopWritesErrOnly := by
  intro s
  obtain ⟨hzero, -⟩ := writtenOutWordsDecode
  refine ⟨rfl, by rw [runCommand, hzero], fun v hop hv => ?_⟩
  rcases runCommand_cases v s with ⟨i, hd, -⟩ | ⟨-, -, hrun⟩
  · exact absurd (eq_zero_of_decode_of_opField hd hop) hv
  · exact hrun

end Sys2Proof.Machine
end

section
/-! PROOFS. Errors: what a command that fails leaves alone, and that no command depends on the error of the one before
(R271, R272, R276). -/

namespace Sys2Proof.Machine

/-- R272: of a command's effects, the one that leaves an error changes nothing else. -/
theorem CommandEffect.eq_setErr {i : Instr} {s t : State} (h : CommandEffect i s t) (herr : t.err ≠ .ok) :
    t = s.setErr t.err := by
  cases h with
  | failed e he => rfl
  | _ => exact absurd rfl herr

/-! ### STATUS.ERR is not sticky -/

/-- R225, R231: choosing the tweak keeps the error of the command before; the draw does not depend on it. -/
theorem afterTweak_setErr (s : State) (e : Err) (n : Nat) : (s.setErr e).afterTweak n = (s.afterTweak n).setErr e :=
  (apply_ite (fun t => State.setErr t e) (s.twklen.toNat = n) s (s.afterDraw n)).symm

/-- R276: the checks, the inputs and the outputs of an encrypt command do not depend on STATUS.ERR. -/
theorem tweakedEncrypt_setErr {k n : Nat} (enc : Bytes n → Block → Block) (s : State) (e : Err) :
    tweakedEncrypt k n enc (s.setErr e) = tweakedEncrypt k n enc s := by
  simp only [tweakedEncrypt, afterTweak_setErr]
  rfl

/-- R276: a command reads no STATUS.ERR, and writes it in each of its ends. -/
theorem exec_setErr (i : Instr) (s : State) (e : Err) : exec i (s.setErr e) = exec i s := by
  cases i with
  | ndEnc => exact (exec_ndEnc _).trans (tweakedEncrypt_setErr _ s e)
  | ndxEnc => exact (exec_ndxEnc _).trans (tweakedEncrypt_setErr _ s e)
  | keyexp k | aesEnc k | aesDec k | kiasuEnc k | kiasuDec k =>
    simp only [exec, execKeyexp, execAesEnc, execAesDec, execKiasuEnc, execKiasuDec, State.setErr_keyHalf]
    rfl
  | _ => rfl

/-- Settles O51: the one failing effect sets STATUS.ERR only, and STATUS.ERR is no input of a command. -/
theorem failedCommandChangesOnlyErr : Obligations.FailedCommandChangesOnlyErr :=
  ⟨fun _ _ _ h herr => (effect_of_exec h).eq_setErr herr, exec_setErr⟩

/-- Settles O52: each effect of a command ends with OK or with an error that R271 lists for it. -/
theorem errorCausesPerCommand : Obligations.ErrorCausesPerCommand := fun _ _ _ h =>
  (effect_of_exec h).err_eq_ok_or_mem

end Sys2Proof.Machine
end

section
/-! PROOFS. The CMD write and the BUSY window from the host's side: what starts them, that a polling host sees no LATENCY,
and what changes STATUS.OVR (R305, R306, R307, R313). -/

namespace Sys2Proof.Machine

/-! ### The CMD write (R305, R306) -/

/-- R33: with no command in flight a 4-byte write to CMD issues its word. -/
theorem step_of_ready_cmdWrite {s : State} {v : Word} {rest : List HostAction}
    (hh : s.host = .access (.write 4 0 v) :: rest) (hi : s.inflight = none) :
    step s = issue v { s with host := rest, resp := .done } :=
  step_of_ready_access hh hi (by decide : 0 < windowSize) rfl

/-- R306: the step of a CMD write that starts a BUSY window. -/
theorem step_of_cmdWrite_latency_succ {s : State} {v : Word} {rest : List HostAction} {k : Nat} {ls : List Nat}
    (hh : s.host = .access (.write 4 0 v) :: rest) (hi : s.inflight = none) (hl : s.latency = (k + 1) :: ls) :
    step s = .next { s with host := rest, latency := ls, resp := .done, inflight := some ⟨v, k⟩ } := by
  simp [step_of_ready_cmdWrite hh hi, issue, hl]

/-- R305: the step of a CMD write with LATENCY 0 listed for it. -/
theorem step_of_cmdWrite_latency_zero {s : State} {v : Word} {rest : List HostAction} {ls : List Nat}
    (hh : s.host = .access (.write 4 0 v) :: rest) (hi : s.inflight = none) (hl : s.latency = 0 :: ls) :
    step s = runCommand v { s with host := rest, latency := ls, resp := .done } := by
  simp [step_of_ready_cmdWrite hh hi, issue, hl]

/-- Settles O6: the LATENCY listed for the write starts the window, and BUSY is bit 6 of the STATUS word. -/
theorem cmdWriteWithLatencyStartsBusy : Obligations.CmdWriteWithLatencyStartsBusy := by
  intro s v rest k ls hh hi hl
  exact ⟨_, step_of_cmdWrite_latency_succ hh hi hl, rfl, memRead_status_busy _⟩

/-! ### No command depends on the bus response

A poll in the BUSY window leaves its own response on the bus, so the command that then takes effect starts from a state that
differs from the atomic one in `resp`. -/

/-- The bus shows `p`. -/
def State.setResp (s : State) (p : BusResponse) : State := { s with resp := p }

/-- Two results are the same, but that the second shows `p` on the bus. -/
def SameButResp (p : BusResponse) (r r' : Result) : Prop := r' = mapNext (fun t => t.setResp p) r

section
variable {p : BusResponse}

theorem sameButResp_ite {c : Prop} [Decidable c] {r r' q q' : Result} (hr : SameButResp p r r') (hq : SameButResp p q q') :
    SameButResp p (if c then r else q) (if c then r' else q') := by
  split
  · exact hr
  · exact hq

theorem sameButResp_withRoundKey (r : Nat) (f : Block → Block → Block) (s : State) :
    SameButResp p (withRoundKey r f s) (withRoundKey r f (s.setResp p)) :=
  sameButResp_ite rfl (sameButResp_ite rfl rfl)

theorem keyHalf_setResp (s : State) (k : KeySel) : (s.setResp p).keyHalf k = s.keyHalf k := keyHalf_congr rfl k

theorem text_setResp (s : State) : (s.setResp p).text = s.text := rfl

theorem addressInput_setResp (s : State) : addressInput (s.setResp p) = addressInput s := rfl

theorem modeCheck_setResp (k n : Nat) (s : State) : modeCheck k n (s.setResp p) = modeCheck k n s := rfl

theorem afterTweak_setResp (s : State) (n : Nat) : (s.setResp p).afterTweak n = (s.afterTweak n).setResp p :=
  (apply_ite (fun t => State.setResp t p) (s.twklen.toNat = n) s (s.afterDraw n)).symm

theorem sameButResp_tweakedEncrypt {k n : Nat} (enc : Bytes n → Block → Block) (s : State) :
    SameButResp p (tweakedEncrypt k n enc s) (tweakedEncrypt k n enc (s.setResp p)) := by
  simp only [tweakedEncrypt, modeCheck_setResp, addressInput_setResp, afterTweak_setResp]
  cases modeCheck k n s with
  | some e => rfl
  | none => cases addressInput s <;> rfl

theorem sameButResp_tweakedDecrypt {k n : Nat} (dec : Bytes n → Block → Block) (s : State) :
    SameButResp p (tweakedDecrypt k n dec s) (tweakedDecrypt k n dec (s.setResp p)) := by
  simp only [tweakedDecrypt, modeCheck_setResp]
  cases modeCheck k n s with
  | some e => rfl
  | none => exact sameButResp_ite rfl (sameButResp_ite rfl rfl)

/-- The checks, the inputs and the outputs of a command are none of the bus response. -/
theorem sameButResp_exec (i : Instr) (s : State) : SameButResp p (exec i s) (exec i (s.setResp p)) := by
  cases i with
  | nop | clear | subb | isubb | shr | ishr | mixc | imixc | xexEnc | xexDec | format => rfl
  | keyexp k | aesEnc k | aesDec k | kiasuEnc k | kiasuDec k =>
    simp only [exec, execKeyexp, execAesEnc, execAesDec, execKiasuEnc, execKiasuDec, keyHalf_setResp]
    rfl
  | addrk r | addrkt r | eround r | efinal r | dround r | dinit r =>
    simp only [exec, execAddrk, execAddrkt, execEround, execEfinal, execDround, execDinit]
    exact sameButResp_withRoundKey r _ s
  | parse =>
    simp only [exec, execParse, addressInput_setResp]
    cases addressInput s <;> rfl
  | hexenc => exact sameButResp_ite rfl rfl
  | hexdec =>
    refine sameButResp_ite rfl ?_
    rw [text_setResp]
    cases unhex s.text <;> rfl
  | detEnc | detDec =>
    refine sameButResp_ite rfl ?_
    rw [addressInput_setResp]
    cases addressInput s <;> rfl
  | ndEnc => exact sameButResp_tweakedEncrypt (k := 16) (fun x q => encrypt s.keyA q (pad8 x)) s
  | ndxEnc => exact sameButResp_tweakedEncrypt (k := 32) (xexEncrypt s.keyA s.keyB) s
  | ndDec => exact sameButResp_tweakedDecrypt (k := 16) (fun x c => decrypt s.keyA c (pad8 x)) s
  | ndxDec => exact sameButResp_tweakedDecrypt (k := 32) (xexDecrypt s.keyA s.keyB) s

theorem runCommand_setResp (v : Word) (s : State) :
    runCommand v (s.setResp p) = mapNext (fun t => t.setResp p) (runCommand v s) := by
  unfold runCommand
  cases decode v with
  | ok i => exact sameButResp_exec i s
  | error e => rfl

end

/-! ### The polling host (R305, R306, R313) -/

theorem runCommand_keeps_host {v : Word} {s t : State} (h : runCommand v s = .next t) : t.host = s.host := by
  rcases runCommand_cases v s with ⟨i, -, he⟩ | ⟨e, -, he⟩
  · exact (effect_of_exec (he.symm.trans h)).keeps_host.1
  · cases he.symm.trans h
    rfl

/-- R306: a poll puts its own response on the bus, whatever stood there. -/
theorem step_setResp_of_wait {s : State} {rest : List HostAction} (hh : s.host = .wait :: rest) (p : BusResponse) :
    step (s.setResp p) = step s := by
  rw [step_of_host_cons hh, step_of_host_cons (s := s.setResp p) hh]
  rfl

/-- R306: a command and the poll after it end the same, whatever the bus showed before the command took effect. -/
theorem runCommand_setResp_then_poll {s : State} {rest : List HostAction} (hh : s.host = .wait :: rest) (v : Word)
    (p : BusResponse) : andThen (runCommand v (s.setResp p)) step = andThen (runCommand v s) step := by
  obtain ⟨t, ht⟩ := runCommand_next v s
  rw [runCommand_setResp, ht]
  exact step_setResp_of_wait ((runCommand_keeps_host ht).trans hh) p

/-- R306: a poll in the BUSY window is answered BUSY = 1, and the host polls on. -/
theorem step_of_busy_wait {s : State} {v : Word} {k : Nat} {rest : List HostAction} (hh : s.host = .wait :: rest)
    (hi : s.inflight = some ⟨v, k⟩) : ∃ p, step s = windowSlot v k (s.setResp p) := by
  have hbusy : (memRead { s with host := rest } 4 4).getLsbD 6 = true := by
    rw [memRead_status_busy]
    simp [State.busy, hi]
  have hpoll : poll { s with host := rest } = s.setResp (.data 4 (memRead { s with host := rest } 4 4)) := by
    simp [poll, hbusy, State.setResp, hh]
  refine ⟨.data 4 (memRead { s with host := rest } 4 4), ?_⟩
  rw [step_of_inflight hh hi, act, andThen_next, hpoll]
  exact tick_eq_windowSlot _ v k hi

/-- `k` steps, in the words of `step`. -/
def steps : Nat → State → Result
  | 0, s => .next s
  | k + 1, s => andThen (step s) (steps k)

theorem steps_one (s : State) : steps 1 s = step s := by
  rw [steps]
  cases step s <;> rfl

theorem core_run_eq_steps (k : Nat) (s : State) : core.run k s = steps k s := by
  induction k generalizing s with
  | zero => rfl
  | succ k ih =>
    cases hs : step s with
    | next t => simpa [Host.Core.run, steps, core, hs] using ih t
    | fault | refused => simp [Host.Core.run, steps, core, hs, andThen]

/-- R305, R306: polling from a BUSY window with `k + 1` slots to come, and once more after it, ends as the command and one
poll do. -/
theorem steps_of_polled_window {v : Word} {rest : List HostAction} (k : Nat) {s : State}
    (hh : s.host = .wait :: rest) (hi : s.inflight = some ⟨v, k⟩) :
    steps (k + 2) s = andThen (runCommand v { s with inflight := none }) step := by
  induction k generalizing s with
  | zero =>
    obtain ⟨p, hp⟩ := step_of_busy_wait hh hi
    rw [steps, hp, funext steps_one]
    exact runCommand_setResp_then_poll (s := { s with inflight := none }) hh v p
  | succ k ih =>
    obtain ⟨p, hp⟩ := step_of_busy_wait hh hi
    rw [steps, hp]
    exact (ih (s := { s.setResp p with inflight := some ⟨v, k⟩ }) hh rfl).trans
      (runCommand_setResp_then_poll (s := { s with inflight := none }) hh v p)

/-- R305, R306: a CMD write with LATENCY `n` and the polls after it end as the command and one poll do. -/
theorem steps_of_polled_cmdWrite {s : State} {v : Word} {n : Nat} {ls : List Nat} {rest : List HostAction}
    (hh : s.host = .access (.write 4 0 v) :: .wait :: rest) (hi : s.inflight = none) (hl : s.latency = n :: ls) :
    steps (n + 2) s =
      andThen (runCommand v { s with host := .wait :: rest, latency := ls, resp := .done }) step := by
  cases n with
  | zero => rw [steps, step_of_cmdWrite_latency_zero hh hi hl, funext steps_one]
  | succ k =>
    rw [steps, step_of_cmdWrite_latency_succ hh hi hl, andThen_next, steps_of_polled_window k rfl rfl, ← hi]

/-- Settles O11: both runs end as the command and one poll do. -/
theorem latencyIsInvisible : Obligations.LatencyIsInvisible := by
  intro s v n ls rest hi
  have hrun (m : Nat) : core.run (m + 2) { s with host := .access (.write 4 0 v) :: .wait :: rest, latency := m :: ls } =
      andThen (runCommand v { s with host := .wait :: rest, latency := ls, resp := .done }) step :=
    (core_run_eq_steps _ _).trans (steps_of_polled_cmdWrite rfl hi rfl)
  exact (hrun n).trans (hrun 0).symm

/-! ### STATUS.OVR (R307) -/

theorem writeByte_ovr (s : State) (o : Nat) (v : Byte) : (writeByte s o v).ovr = s.ovr := by
  obtain ⟨-, -, -, hovr, -⟩ := writeByte_frame s o v
  exact hovr

theorem memWrite_ovr (s : State) (w o : Nat) (v : Word) : (memWrite s w o v).ovr = s.ovr := by
  unfold memWrite
  split
  · exact writeByte_ovr s o _
  · simp only [writeWord_eq, writeByte_ovr]

/-- R261, R307: a command that takes effect leaves OVR alone, or it is CLEAR. -/
theorem runCommand_ovr {v : Word} {s t : State} (h : runCommand v s = .next t) :
    t.ovr = s.ovr ∨ (t.ovr = false ∧ decode v = .ok .clear) := by
  rcases runCommand_cases v s with ⟨i, hd, he⟩ | ⟨e, -, he⟩
  · by_cases hc : i = .clear
    · subst hc
      cases he.symm.trans h
      exact .inr ⟨rfl, hd⟩
    · obtain ⟨-, -, -, -, hovr, -⟩ := (effect_of_exec (he.symm.trans h)).keeps_key hc
      exact .inl hovr
  · cases he.symm.trans h
    exact .inl rfl

/-- R307: a CMD write leaves OVR alone, or it is a CLEAR that takes effect at the write. -/
theorem issue_ovr {v : Word} {s t : State} (h : issue v s = .next t) :
    t.ovr = s.ovr ∨ (t.ovr = false ∧ decode v = .ok .clear ∧ (s.latency = [] ∨ ∃ ls, s.latency = 0 :: ls)) := by
  rcases issue_cases v s with ⟨hl, he⟩ | ⟨ls, hl, he⟩ | ⟨k, ls, -, he⟩
  · exact (runCommand_ovr (he.symm.trans h)).imp_right fun ⟨ht, hd⟩ => ⟨ht, hd, .inl hl⟩
  · exact (runCommand_ovr (he.symm.trans h)).imp_right fun ⟨ht, hd⟩ => ⟨ht, hd, .inr ⟨ls, hl⟩⟩
  · cases he.symm.trans h
    exact .inl rfl

/-- R307: a unit of LATENCY leaves OVR alone, or it is the last one of a CLEAR. -/
theorem tick_ovr {s t : State} (h : tick s = .next t) :
    t.ovr = s.ovr ∨ (t.ovr = false ∧ ∃ v, decode v = .ok .clear ∧ s.inflight = some ⟨v, 0⟩) := by
  rcases tick_cases s with ⟨-, he⟩ | ⟨v, hi, he⟩ | ⟨v, k, -, he⟩
  · cases he.symm.trans h
    exact .inl rfl
  · exact (runCommand_ovr (he.symm.trans h)).imp_right fun ⟨ht, hd⟩ => ⟨ht, v, hd, hi⟩
  · cases he.symm.trans h
    exact .inl rfl

/-- R64: a write inside the window of a legal width and alignment. -/
def IsLegalWrite (a : HostAction) : Prop :=
  ∃ w o x, a = .access (.write w o x) ∧ o < windowSize ∧ legalAccess w o = true

/-- R307: what the slot of the action `a` can do to STATUS.OVR, from `s` to `t`. -/
inductive OvrChange (a : HostAction) (s t : State) : Prop
  | kept (ht : t.ovr = s.ovr)
  | dropped (ht : t.ovr = true) (hb : s.busy = true) (ha : IsLegalWrite a)
  | reset (ht : t.ovr = false) (cut : Option Access) (ha : a = .reset cut)
  | cleared (ht : t.ovr = false) (v : Word) (hd : decode v = .ok .clear)
      (hv : s.inflight = some ⟨v, 0⟩ ∨ (ReadyAtomic s ∧ a = .access (.write 4 0 v)))

/-- R64: the legal writes to CMD are those of its whole word. -/
theorem width_offset_of_legal_cmd {w o : Nat} (hl : legalAccess w o = true) (ho : o < 4) : w = 4 ∧ o = 0 := by
  rw [legalAccess_iff] at hl
  omega

/-- R305, R307: with no command in flight only a served CMD write can change OVR. -/
theorem serve_ovrChange {a : Access} {s t : State} (hi : s.inflight = none) (hl : legalAccess a.width a.offset = true)
    (h : serve a s = .next t) : OvrChange (.access a) s t := by
  cases a with
  | read w o =>
    cases h
    exact .kept rfl
  | write w o v =>
    rw [serve] at h
    split at h
    next ho =>
      obtain ⟨rfl, rfl⟩ := width_offset_of_legal_cmd hl ho
      rcases issue_ovr h with ht | ⟨ht, hd, hlat⟩
      · exact .kept ht
      · exact .cleared ht v hd (.inr ⟨⟨hi, hlat⟩, rfl⟩)
    · cases h
      exact .kept (memWrite_ovr s w o v)

theorem act_ovrChange_of_ready {a : HostAction} {s t : State} (hi : s.inflight = none) (h : act a s = .next t) :
    OvrChange a s t := by
  cases a with
  | wait | idle =>
    cases h
    exact .kept rfl
  | reset cut =>
    cases h
    cases cut <;> exact .reset rfl _ rfl
  | access b =>
    rcases busAccess_cases b s with ⟨-, he⟩ | ⟨-, -, he⟩ | ⟨-, -, hb, -⟩ | ⟨-, hl, -, he⟩
    · cases he.symm.trans h
    · cases he.symm.trans h
      exact .kept rfl
    · simp [State.busy, hi] at hb
    · exact serve_ovrChange hi hl (he.symm.trans h)

/-- R280, R306, R307: an access during BUSY leaves the command in flight alone, and OVR too but for a legal write. -/
theorem busAccess_ovr_of_busy {a : Access} {s u : State} (hb : s.busy = true) (h : busAccess a s = .next u) :
    u.inflight = s.inflight ∧ (u.ovr = s.ovr ∨ (u.ovr = true ∧ IsLegalWrite (.access a))) := by
  rcases busAccess_cases a s with ⟨-, he⟩ | ⟨-, -, he⟩ | ⟨ho, hl, -, -, he⟩ | ⟨-, -, hk, he⟩
  · cases he.symm.trans h
  · cases he.symm.trans h
    exact ⟨rfl, .inl rfl⟩
  · cases he.symm.trans h
    cases a with
    | read w o => exact ⟨rfl, .inl rfl⟩
    | write w o x => exact ⟨rfl, .inr ⟨rfl, w, o, x, rfl, ho, hl⟩⟩
  · cases a with
    | read w o =>
      cases he.symm.trans h
      exact ⟨rfl, .inl rfl⟩
    | write w o x => simp [hb, isStatusRead] at hk

/-- R302, R307: what an action during BUSY leaves for the LATENCY that passes after it. -/
theorem act_ovr_of_busy {a : HostAction} {s u : State} (hb : s.busy = true) (h : act a s = .next u) :
    (∃ cut, a = .reset cut ∧ u.inflight = none ∧ u.ovr = false) ∨
    (u.inflight = s.inflight ∧ (u.ovr = s.ovr ∨ (u.ovr = true ∧ IsLegalWrite a))) := by
  cases a with
  | access b => exact .inr (busAccess_ovr_of_busy hb h)
  | wait | idle =>
    cases h
    exact .inr ⟨rfl, .inl rfl⟩
  | reset cut =>
    cases h
    cases cut <;> exact .inl ⟨_, rfl, rfl, rfl⟩

theorem slot_ovrChange {a : HostAction} {s t : State} (h : slot a s = .next t) : OvrChange a s t := by
  rcases slot_cases a s with ⟨hb, he⟩ | ⟨hb, he⟩
  · exact act_ovrChange_of_ready (by simpa [State.busy] using hb) (he.symm.trans h)
  · obtain ⟨u, hu, htick⟩ := andThen_eq_next (he.symm.trans h)
    have hact := act_ovr_of_busy hb hu
    rcases tick_ovr htick with ht | ⟨ht, v, hd, hi⟩
    · rcases hact with ⟨cut, ha, -, hovr⟩ | ⟨-, hovr | ⟨hovr, ha⟩⟩
      · exact .reset (ht.trans hovr) cut ha
      · exact .kept (ht.trans hovr)
      · exact .dropped (ht.trans hovr) hb ha
    · rcases hact with ⟨cut, ha, -⟩ | ⟨hinfl, -⟩
      · exact .reset ht cut ha
      · exact .cleared ht v hd (.inl (hinfl ▸ hi))

/-- Settles O9: what the slot of the host's action can do to OVR; the idle slot does none of it but a CLEAR's end. -/
theorem overrunIsSticky : Obligations.OverrunIsSticky := by
  intro s t h
  rcases step_eq s with ⟨-, he⟩ | ⟨a, rest, hh, he⟩
  · cases slot_ovrChange (he.symm.trans h) with
    | kept ht => exact .inl ht
    | dropped _ _ ha =>
      obtain ⟨w, o, x, ha, -⟩ := ha
      cases ha
    | reset _ cut ha => cases ha
    | cleared ht v hd hv => exact .inr (.inr ⟨ht, .inr ⟨v, hd, hv.imp_right fun ⟨_, ha⟩ => by cases ha⟩⟩)
  · cases slot_ovrChange (he.symm.trans h) with
    | kept ht => exact .inl ht
    | dropped ht hb ha =>
      obtain ⟨w, o, x, rfl, ho, hl⟩ := ha
      exact .inr (.inl ⟨ht, hb, w, o, x, rest, hh, ho, (legalAccess_iff w o).mp hl⟩)
    | reset ht cut ha => exact .inr (.inr ⟨ht, .inl ⟨cut, rest, ha ▸ hh⟩⟩)
    | cleared ht v hd hv =>
      exact .inr (.inr ⟨ht, .inr ⟨v, hd, hv.imp_right fun ⟨hr, ha⟩ => ⟨hr, rest, ha ▸ hh⟩⟩⟩)

end Sys2Proof.Machine
end
